-- ==== Sys2Proof/Word.lean ====
section
/-! DEFINITION. The word types of BA-CODEC, at the widths 00_scope.md R9 and 10_state.md R20 give. All values are unsigned
(00 R10), bit 0 is the least significant bit (00 R11). -/

namespace Sys2Proof

/-- A byte: a packed byte, an RLE count or value, the operand of a format-D command (`PIXW` = 8, 00 R9; 30 R72). -/
abbrev Byte := BitVec 8

/-- A command word (`CMDW` = 12, 00 R9; 30 R70): one transfer, not a byte sequence (20 R57). -/
abbrev CmdWord := BitVec 12

/-- A configured width or height (`DIMW` = 16, 00 R9; 10 R29). -/
abbrev Dim := BitVec 16

/-- The word with opcode `op` and operand `arg`: `op ++ arg` (30 R71). -/
def CmdWord.ofFields (op : BitVec 4) (arg : Byte) : CmdWord := op ++ arg

/-- The opcode field, `w[11:8]` (30 R71). -/
def CmdWord.op (w : CmdWord) : BitVec 4 := w.extractLsb' 8 4

/-- The operand field, `w[7:0]` (30 R71). -/
def CmdWord.arg (w : CmdWord) : Byte := w.extractLsb' 0 8

end Sys2Proof
end

