-- ==== Sys2Proof/Assembly.lean ====
section
/-! DEFINITION. Assembler statements as data (30_encoding.md R85 to R88), before they are checked. -/

namespace Sys2Proof

/-- A statement of an assembler program (30 R85). An operand is the integer as written: whether it is in range is
`Stmt.wellFormed` (WellFormed.lean). -/
inductive Stmt where
  | nop
  | pix (n : Nat)
  | eoi
  | byte (n : Nat)
  | eob
  /-- `DRK`, which is `PIX 0` (30 R87). -/
  | drk
  /-- `BRT`, which is `PIX 255` (30 R87). -/
  | brt
  /-- `WORD n`, the 12-bit word `n` itself (30 R87). -/
  | word (n : Nat)
  /-- `REP n, <statement>`, `n` copies of the statement (30 R88). -/
  | rep (n : Nat) (body : Stmt)
  deriving DecidableEq, Repr

/-- Why a program text is no program (30 R85, R88). -/
inductive AsmError where
  /-- The line is no statement of the assembler. -/
  | syntaxError
  /-- An operand is out of range, or a `REP` stands inside a `REP`: an assembly error, not a command. -/
  | illFormed (st : Stmt)
  deriving DecidableEq, Repr

end Sys2Proof
end

