-- ==== Sys2Proof/Syntax.lean ====
section
/-! DEFINITION. The commands: one constructor per row of spec/opcode_table.json (30_encoding.md R80). -/

namespace Sys2Proof

/-- The five commands of the command port (30 R80). A format-D operand is its 8-bit datum and nothing else (30 R72, R78),
so no term carries an operand the encoding does not admit. -/
inductive Instr where
  /-- `NOP`: do nothing (42 R150). -/
  | nop
  /-- `PIX v`: take one pixel of intensity `v` (40 R102). -/
  | pix (v : Byte)
  /-- `EOI`: end of image (40 R103). -/
  | eoi
  /-- `BYTE b`: encode one byte (41 R122). -/
  | byte (b : Byte)
  /-- `EOB`: end of buffer (41 R123). -/
  | eob
  deriving DecidableEq, Repr

/-- The mnemonic of a command (30 R80), as spec/opcode_table.json spells it. -/
def Instr.mnemonic : Instr → String
  | .nop => "NOP"
  | .pix _ => "PIX"
  | .eoi => "EOI"
  | .byte _ => "BYTE"
  | .eob => "EOB"

/-- The opcode of a command (30 R80, column `op`). -/
def Instr.opcode : Instr → BitVec 4
  | .nop => 0x0#4
  | .pix _ => 0x1#4
  | .eoi => 0x2#4
  | .byte _ => 0x3#4
  | .eob => 0x4#4

/-- The operand field of a command: the datum in format D, 0 in format N (30 R72). -/
def Instr.operand : Instr → Byte
  | .nop => 0#8
  | .pix v => v
  | .eoi => 0#8
  | .byte b => b
  | .eob => 0#8

end Sys2Proof
end

