-- ==== Sys2Proof/WellFormed.lean ====
section
/-! DEFINITION. Which command words are commands (30_encoding.md R80 to R83) and which assembler statements are statements
(30 R85 to R88). -/

namespace Sys2Proof

/-- The opcode map of 30 R80 (spec/opcode_table.json): mnemonic, match, mask. -/
def opcodeTable : List (String × CmdWord × CmdWord) :=
  [ ("NOP", 0x000#12, 0xFFF#12),
    ("PIX", 0x100#12, 0xF00#12),
    ("EOI", 0x200#12, 0xFFF#12),
    ("BYTE", 0x300#12, 0xF00#12),
    ("EOB", 0x400#12, 0xFFF#12) ]

/-- Word `w` is the command of the row (30 R80): `w & mask = match`. -/
def rowMatches (row : String × CmdWord × CmdWord) (w : CmdWord) : Bool :=
  w &&& row.2.2 == row.2.1

/-- Some row of the opcode map takes `w`. Every other word is illegal (30 R80, R83). -/
def CmdWord.legal (w : CmdWord) : Bool :=
  opcodeTable.any (rowMatches · w)

/-- A command is well formed when the word of its fields (30 R71, R72) is a legal word. The operand types of `Instr` already
hold the range check, so this holds of every term; `CmdWord.legal` is the check that can fail. -/
def Instr.wellFormed (i : Instr) : Bool :=
  CmdWord.legal (CmdWord.ofFields i.opcode i.operand)

/-- The statement is a `REP`. -/
def Stmt.isRep : Stmt → Bool
  | .rep _ _ => true
  | _ => false

/-- The assembler's checks: operands of `PIX` and `BYTE` in 0 to 255 (30 R85), of `WORD` in 0 to `0xFFF` (30 R87), no
`REP` inside a `REP` (30 R88). -/
def Stmt.wellFormed : Stmt → Bool
  | .pix n => n ≤ 255
  | .byte n => n ≤ 255
  | .word n => n ≤ 0xFFF
  | .rep _ body => !body.isRep && body.wellFormed
  | .nop => true
  | .eoi => true
  | .eob => true
  | .drk => true
  | .brt => true

end Sys2Proof
end

