-- ==== Sys2Proof/Decode.lean ====
section
/-! DEFINITION. Decoding (30_encoding.md R90), total on all 4096 words, and the encoder (30 R86). -/

namespace Sys2Proof

/-- Why a word is no command. Both raise `ILLEGAL_CMD` (60 R182). -/
inductive Reject where
  /-- `op` in `0x5` to `0xF` (30 R81). -/
  | reservedOpcode
  /-- A format-N opcode with `arg ≠ 0` (30 R82). -/
  | nonZeroArg
  deriving DecidableEq, Repr

/-- What decoding a word gives (30 R90). -/
inductive Decoded where
  | command (i : Instr)
  | illegal (why : Reject)
  deriving DecidableEq, Repr

/-- A format-N word: the command if `arg = 0`, else rejected (30 R72, R82). -/
def decodeN (i : Instr) (arg : Byte) : Decoded :=
  if arg = 0#8 then .command i else .illegal .nonZeroArg

/-- The decode function of 30 R90. It reads no state. -/
def decode (w : CmdWord) : Decoded :=
  if w.op = 0x0#4 then decodeN .nop w.arg
  else if w.op = 0x1#4 then .command (.pix w.arg)
  else if w.op = 0x2#4 then decodeN .eoi w.arg
  else if w.op = 0x3#4 then .command (.byte w.arg)
  else if w.op = 0x4#4 then decodeN .eob w.arg
  else .illegal .reservedOpcode

/-- The word of a command (30 R86): `NOP` → `0x000`, `PIX v` → `0x100 + v`, `EOI` → `0x200`, `BYTE b` → `0x300 + b`,
`EOB` → `0x400`. -/
def encode : Instr → CmdWord
  | .nop => 0x000#12
  | .pix v => 0x100#12 + v.setWidth 12
  | .eoi => 0x200#12
  | .byte b => 0x300#12 + b.setWidth 12
  | .eob => 0x400#12

/-- The decoder's answer as an option: the command, or none where the word is illegal. -/
def Decoded.command? : Decoded → Option Instr
  | .command i => some i
  | .illegal _ => none

/-- The number the host gives as `nbits` bits of a table row, as a command word. A word has 12 bits (30 R70), so a number of
more bits is no word. DESIGN CHOICE, log entry 10, safe. -/
def wordOfBits (nbits w : Nat) : Option CmdWord :=
  if w % 2 ^ nbits < 4096 then some (BitVec.ofNat 12 (w % 2 ^ nbits)) else none

/-- The command the decoder reads from a word the host numbers as spec/opcode_table.json numbers it. -/
def decodeTableWord (nbits w : Nat) : Option Instr :=
  (wordOfBits nbits w).bind fun word => (decode word).command?

end Sys2Proof
end

