-- ==== Sys2Proof/Config.lean ====
section
/-! DEFINITION. The configuration `cfg = (W, H)` of a run (00_scope.md R7; 10_state.md R29, R39). No rule leaves a value
free, so there is no free value here. -/

namespace Sys2Proof

/-- Configured width and height. All 16-bit values are legal, 0 included (10 R29, 70 R215). -/
structure Cfg where
  /-- `cfg.W` -/
  W : Dim
  /-- `cfg.H` -/
  H : Dim
  deriving DecidableEq, Repr

/-- The configuration that `State.reset` latches. The spec makes it the host's to give (70 R213, R214) and states no value.
DESIGN CHOICE, log entry 1, unsafe: 0 and 0, the empty image of 40 R116. A run with any other configuration starts with
the host's configure and reset actions, or at `State.resetWith cfg`, and no statement is about this value alone. -/
def Cfg.atReset : Cfg := { W := 0#16, H := 0#16 }

end Sys2Proof
end

