-- ==== Sys2Proof/Machine/State.lean ====
section
/-! DEFINITION. The architectural state (10_state.md R20, R30, R31), the three streams at the block's boundary (20_memory.md
R50) and the state after reset (10 R40). Plain data. The block has no memory and no program counter (10 R28, R37). -/

namespace Sys2Proof.Machine

/-- An output port (00 R13, 20 R50). -/
inductive Port where
  /-- The packed bitstream. -/
  | pk
  /-- The RLE pairs. -/
  | out
  deriving DecidableEq, Repr

/-- An event on an output port (20 R53): `B(b)`, or `END`, which is no byte (30 R76). -/
inductive Event where
  | byte (b : Byte)
  | endMark
  deriving DecidableEq, Repr

/-- The causes a fault can have (60 R181, codes 1 to 3). -/
inductive Cause where
  | illegalCmd
  | dimOverrun
  | dimUnderrun
  deriving DecidableEq, Repr

/-- What the host does to the block (70 R232) that can change its state. Reading a register is `State.view`, which changes
nothing (10 R36). -/
inductive HostAction where
  /-- Offer a command word on the command port. -/
  | issue (w : CmdWord)
  /-- Put values on the configuration inputs; the block samples them at reset only (70 R213, R225). -/
  | configure (cfg : Cfg)
  /-- Reset the block (70 R210). -/
  | reset
  deriving DecidableEq, Repr

/-- What one run of the system put on the two ports. Two sequences: no order between the ports is architectural (20 R64). -/
structure Outputs where
  pk : List Event
  out : List Event
  deriving DecidableEq, Repr

/-- The state: the ten registers of 10 R20 (of `STATUS` the stored bits, 10 R31), and the streams. -/
structure State where
  /-- `ACC`: the bits of the packed byte being assembled (10 R21). -/
  acc : Byte
  /-- `NB`: how many bits of `ACC` are valid (10 R22). -/
  nb : BitVec 4
  /-- `PCNT`: pixels of the current image taken (10 R23). -/
  pcnt : BitVec 32
  /-- `RVAL`: value of the open run (10 R24). -/
  rval : Byte
  /-- `RCNT`: length of the open run, 0 for none (10 R25). -/
  rcnt : Byte
  /-- `FIDX`: buffers completed since reset, modulo 2^32 (10 R26). -/
  fidx : BitVec 32
  /-- `STATUS.FAULT` (10 R30). -/
  fault : Bool
  /-- `STATUS.CAUSE` (10 R30). -/
  cause : BitVec 3
  /-- `FINFO`: the command word that faulted (10 R34). -/
  finfo : CmdWord
  /-- `CFG_W` (10 R29). -/
  cfgW : Dim
  /-- `CFG_H` (10 R29). -/
  cfgH : Dim
  /-- The values on the configuration inputs (10 R29, 70 R213). -/
  cfgIn : Cfg
  /-- What the host has yet to do, first first: the unconsumed suffix of the command stream (10 R28, 20 R52), with the
  host's other actions in their places. -/
  input : List HostAction
  /-- Events emitted on `PK` in this run, first first (20 R51). -/
  pk : List Event
  /-- Events emitted on `OUT` in this run, first first (20 R51). -/
  out : List Event
  /-- What the runs ended by a reset had emitted, first first: reset withdraws nothing (20 R51, 70 R211). DESIGN CHOICE, log
  entry 3, safe. -/
  earlier : List Outputs
  deriving DecidableEq, Repr

/-- Lean faults. None exists: every command word has an outcome (30 R83, 70 R229), and the block's own fault is the latch of
60 R188, a next state. Nobody raises one; safe, since no step stops. -/
inductive Fault where
  deriving DecidableEq, Repr

/-- Refusals. -/
inductive Refusal where
  /-- An arm of `exec` that has no meaning yet would answer this. No arm does: nobody raises it. Safe: it stops. -/
  | notModelled (mnemonic : String)
  deriving DecidableEq, Repr

/-- The block right after reset with configuration `cfg` on its inputs: 10 R40's table, nothing emitted, nothing offered. -/
def State.resetWith (cfg : Cfg) : State where
  acc := 0#8
  nb := 0#4
  pcnt := 0#32
  rval := 0#8
  rcnt := 0#8
  fidx := 0#32
  fault := false
  cause := 0#3
  finfo := 0#12
  cfgW := cfg.W
  cfgH := cfg.H
  cfgIn := cfg
  input := []
  pk := []
  out := []
  earlier := []

/-- The machine after reset, at the configuration `Cfg.atReset` (log entry 1). -/
def State.reset : State := State.resetWith Cfg.atReset

end Sys2Proof.Machine
end

