-- ==== Sys2Proof/Machine/Flags.lean ====
section
/-! DEFINITION. `STATUS` and its derived flags (10_state.md R30, R32), the `FAULT` output (60_exceptions.md R191), the cause
codes (60 R181). There are no condition codes (10 R33). -/

namespace Sys2Proof.Machine

/-- `STATUS.RUN_OPEN`: 1 when `RCNT ≠ 0` (10 R30). -/
def State.runOpen (s : State) : Bool := s.rcnt != 0#8

/-- `STATUS.BP_PARTIAL`: 1 when `NB ≠ 0` (10 R30). -/
def State.bpPartial (s : State) : Bool := s.nb != 0#4

/-- `STATUS.IMG_OPEN`: 1 when `PCNT ≠ 0` (10 R30). -/
def State.imgOpen (s : State) : Bool := s.pcnt != 0#32

/-- The byte `STATUS`, bit 7 down to bit 0: 0, `IMG_OPEN`, `BP_PARTIAL`, `RUN_OPEN`, `CAUSE` (3 bits), `FAULT` (10 R30). -/
def State.status (s : State) : Byte :=
  0#1 ++ BitVec.ofBool s.imgOpen ++ BitVec.ofBool s.bpPartial ++ BitVec.ofBool s.runOpen ++ s.cause ++
    BitVec.ofBool s.fault

/-- The level output `FAULT`, equal at all times to `STATUS.FAULT` (60 R191). -/
def State.faultPin (s : State) : Bool := s.fault

/-- The code of a cause (60 R181). -/
def Cause.code : Cause → BitVec 3
  | .illegalCmd => 1#3
  | .dimOverrun => 2#3
  | .dimUnderrun => 3#3

end Sys2Proof.Machine
end

