-- ==== Sys2Proof/Machine/Operands.lean ====
section
/-! DEFINITION. Operand forms and the arithmetic of the BitPacker: the pixel predicate, the shift into `ACC`, the padded
byte, the image area. -/

namespace Sys2Proof.Machine

/-- A pixel is bright when its intensity is above 0, unsigned (30 R79). -/
def bright (v : Byte) : Bool := 0#8 < v

/-- The packing bit: 1 for dark, 0 for bright (40 R101). -/
def packBit (v : Byte) : BitVec 1 := if bright v then 0#1 else 1#1

/-- `((ACC << 1) | bit)[7:0]` (40 R102, R108). -/
def shiftIn (acc : Byte) (bit : BitVec 1) : Byte := (acc <<< 1) ||| bit.setWidth 8

/-- `(ACC << (8 - NB))[7:0]`: the remaining bits to the top, zeros below (40 R103, R105). -/
def padByte (acc : Byte) (nb : BitVec 4) : Byte := acc <<< (8 - nb.toNat)

/-- `CFG_W * CFG_H`, the exact product (10 R29, 40 R110). -/
def State.area (s : State) : Nat := s.cfgW.toNat * s.cfgH.toNat

/-- `PCNT == CFG_W * CFG_H`, compared as unsigned integers (40 R110). -/
def State.imageFull (s : State) : Bool := s.pcnt.toNat == s.area

end Sys2Proof.Machine
end

