-- ==== Sys2Proof/Machine/Ops.lean ====
section
/-! DEFINITION. The named operations over the state: emitting an event, the two procedures of the RLE unit, the byte hand-over
inside a command, the fault latch and the reset that leaves it, the host's register view. -/

namespace Sys2Proof.Machine

/-- `Emit(P, e)`: append `e` to the stream of port `P` (00 R13, 20 R51). -/
def State.emit (p : Port) (e : Event) (s : State) : State :=
  match p with
  | .pk => { s with pk := s.pk ++ [e] }
  | .out => { s with out := s.out ++ [e] }

/-- Emit the open run as a pair: count byte first, then value byte (20 R56, 41 R120). -/
def State.emitRun (s : State) : State :=
  (s.emit .out (.byte s.rcnt)).emit .out (.byte s.rval)

/-- Open a run of value `b` and length 1 (41 R120). -/
def State.openRun (b : Byte) (s : State) : State :=
  { s with rval := b, rcnt := 1#8 }

/-- `RleByte(b)` (41 R120): open a run, extend it, or close it and open the next. -/
def State.rleByte (b : Byte) (s : State) : State :=
  if s.rcnt = 0#8 then s.openRun b
  else if b = s.rval ∧ s.rcnt < 255#8 then { s with rcnt := s.rcnt + 1#8 }
  else s.emitRun.openRun b

/-- `RleFlush()` (41 R121): close the open run, if any; `RVAL` keeps its value. -/
def State.rleFlush (s : State) : State :=
  if s.rcnt ≠ 0#8 then { s.emitRun with rcnt := 0#8 } else s

/-- The tail `PIX` and `EOI` share when a packed byte is complete: `Emit(PK, B(b))`, `RleByte(b)`, `ACC <- 0`, `NB <- 0`
(40 R102, R103). -/
def State.handOver (b : Byte) (s : State) : State :=
  { (s.emit .pk (.byte b)).rleByte b with acc := 0#8, nb := 0#4 }

/-- The tail `EOI` and `EOB` share: `RleFlush`, `Emit(OUT, END)`, `FIDX <- (FIDX + 1) mod 2^32` (40 R103, 41 R123). -/
def State.closeBuffer (s : State) : State :=
  { s.rleFlush.emit .out .endMark with fidx := s.fidx + 1#32 }

/-- `raise Fault(c, w)`: the fault latch of 60 R188, the one way a fault is taken. Nothing else changes, nothing is emitted,
control goes nowhere. -/
def State.raiseFault (c : Cause) (w : CmdWord) (s : State) : State :=
  { s with fault := true, cause := c.code, finfo := w }

/-- Reset (70 R210 to R213), the only way out of the faulted state (60 R192): every register to its value of 10 R40, the
configuration inputs latched, no event. The events emitted before stay where they went (70 R211). -/
def State.hostReset (s : State) : State :=
  { State.resetWith s.cfgIn with
    input := s.input, earlier := s.earlier ++ [{ pk := s.pk, out := s.out }] }

/-- The first line of every command: while `STATUS.FAULT = 1` the command is accepted and discarded (60 R189). -/
def State.unlessFaulted (effect : State → State) (s : State) : State :=
  if s.fault then s else effect s

/-- The register view (10 R36): register number `n` zero-extended to 32 bits; numbers 10 to 15 read as 0. -/
def State.view (s : State) (n : Fin 16) : BitVec 32 :=
  match n.val with
  | 0 => s.cfgW.setWidth 32
  | 1 => s.cfgH.setWidth 32
  | 2 => s.status.setWidth 32
  | 3 => s.finfo.setWidth 32
  | 4 => s.fidx
  | 5 => s.pcnt
  | 6 => s.acc.setWidth 32
  | 7 => s.nb.setWidth 32
  | 8 => s.rval.setWidth 32
  | 9 => s.rcnt.setWidth 32
  | _ => 0#32

end Sys2Proof.Machine
end

