-- ==== Sys2Proof/Machine/BitPacker.lean ====
section
/-! DEFINITION. The BitPacker commands `PIX` (40_bitpacker.md R102) and `EOI` (40 R103). -/

namespace Sys2Proof.Machine

/-- Shift one packing bit into `ACC` and count it in `NB` and `PCNT` (40 R102). -/
def State.shiftPixel (v : Byte) (s : State) : State :=
  { s with acc := shiftIn s.acc (packBit v), nb := s.nb + 1#4, pcnt := s.pcnt + 1#32 }

/-- `PIX` past its check (40 R102): the pixel is taken, and the eighth bit hands the byte over. -/
def State.takePixel (v : Byte) (s : State) : State :=
  if (s.shiftPixel v).nb = 8#4 then (s.shiftPixel v).handOver (s.shiftPixel v).acc else s.shiftPixel v

/-- `PIX v` (40 R102): `DIM_OVERRUN` when the image already holds `W*H` pixels (60 R183). -/
def execPix (v : Byte) (s : State) : Host.Outcome State Fault Refusal :=
  .next (s.unlessFaulted fun s =>
    if s.imageFull then s.raiseFault .dimOverrun (encode (.pix v)) else s.takePixel v)

/-- The padded last byte, if a partial byte remains (40 R103). -/
def State.flushPartial (s : State) : State :=
  if s.nb ≠ 0#4 then s.handOver (padByte s.acc s.nb) else s

/-- `EOI` past its check (40 R103). -/
def State.endImage (s : State) : State :=
  { (s.flushPartial.emit .pk .endMark).closeBuffer with pcnt := 0#32 }

/-- `EOI` (40 R103): `DIM_UNDERRUN` when the image does not hold `W*H` pixels (60 R184). -/
def execEoi (s : State) : Host.Outcome State Fault Refusal :=
  .next (s.unlessFaulted fun s =>
    if s.imageFull then s.endImage else s.raiseFault .dimUnderrun (encode .eoi))

end Sys2Proof.Machine
end

