-- ==== Sys2Proof/Machine/RleEncoder.lean ====
section
/-! DEFINITION. The RLE encoder commands `BYTE` (41_rle_encoder.md R122) and `EOB` (41 R123). -/

namespace Sys2Proof.Machine

/-- `BYTE b` (41 R122): give one byte to the encoder. It raises nothing (60 R185). -/
def execByte (b : Byte) (s : State) : Host.Outcome State Fault Refusal :=
  .next (s.unlessFaulted (State.rleByte b))

/-- `EOB` (41 R123): close the buffer. It raises nothing (60 R185) and does not touch the BitPacker. -/
def execEob (s : State) : Host.Outcome State Fault Refusal :=
  .next (s.unlessFaulted State.closeBuffer)

end Sys2Proof.Machine
end

