-- ==== Sys2Proof/Machine/SystemCommands.lean ====
section
/-! DEFINITION. The system command `NOP` (42_system.md R150) and what an illegal word does (60_exceptions.md R182). -/

namespace Sys2Proof.Machine

/-- `NOP` (42 R150): no register is written, no event is emitted. -/
def execNop (s : State) : Host.Outcome State Fault Refusal :=
  .next (s.unlessFaulted id)

/-- A word that is no command raises `Fault(ILLEGAL_CMD, w)` (30 R81, R82; 60 R182), unless the block has faulted (60 R187,
R189). -/
def execIllegal (w : CmdWord) (s : State) : Host.Outcome State Fault Refusal :=
  .next (s.unlessFaulted (State.raiseFault .illegalCmd w))

end Sys2Proof.Machine
end

