-- ==== Sys2Proof/Machine/Dispatch.lean ====
section
/-! DEFINITION. One arm per command. -/

namespace Sys2Proof.Machine

def exec (i : Instr) (s : State) : Host.Outcome State Fault Refusal :=
  match i with
  | .nop => Sys2Proof.Machine.execNop s
  | .pix v => Sys2Proof.Machine.execPix v s
  | .eoi => Sys2Proof.Machine.execEoi s
  | .byte b => Sys2Proof.Machine.execByte b s
  | .eob => Sys2Proof.Machine.execEob s

end Sys2Proof.Machine
end

