-- ==== Sys2Proof/Machine/Accept.lean ====
section
/-! DEFINITION. How the block meets the host's actions (70_reset_and_hazards.md R232): it decodes and executes an accepted
command word, samples its configuration at reset, and waits when nothing is offered. -/

namespace Sys2Proof.Machine

/-- Execute one accepted command word, completely (20 R52): decode it, then run the command or raise `ILLEGAL_CMD` (60 R187). -/
def runWord (w : CmdWord) (s : State) : Host.Outcome State Fault Refusal :=
  match decode w with
  | .command i => exec i s
  | .illegal _ => execIllegal w s

/-- Meet one host action (70 R232). New values on the configuration inputs are not seen before a reset (70 R225). -/
def meet (a : HostAction) (s : State) : Host.Outcome State Fault Refusal :=
  match a with
  | .issue w => runWord w s
  | .configure cfg => .next { s with cfgIn := cfg }
  | .reset => .next s.hostReset

/-- Take the next host action and meet it, in the order the host gave (20 R52, R63). With none left the block waits: only
the host's actions change its state (10 R35). DEDUCED, log entry 2, safe. -/
def acceptNext (s : State) : Host.Outcome State Fault Refusal :=
  match s.input with
  | [] => .next s
  | a :: rest => meet a { s with input := rest }

/-- The host offers word `w` before everything else it has yet to do. -/
def State.offer (w : CmdWord) (s : State) : State :=
  { s with input := .issue w :: s.input }

end Sys2Proof.Machine
end

