-- ==== Sys2Proof/Machine/Step.lean ====
section
/-! DEFINITION. The step function: one command per step (70_reset_and_hazards.md R231). -/

namespace Sys2Proof.Machine

/-- One step of the block. -/
def step (s : State) : Host.Outcome State Fault Refusal := acceptNext s

/-- `s` with the word that `nbits` bits of `w` number as the next command offered. A number that is no 12-bit word is not
offered (log entry 10). -/
def State.withFetchWord (s : State) (nbits w : Nat) : State :=
  match wordOfBits nbits w with
  | some word => s.offer word
  | none => s

end Sys2Proof.Machine
end

