-- ==== Sys2Proof/Machine/Assembler.lean ====
section
/-! DEFINITION. The assembler (30_encoding.md R85 to R88) and the listing (30 R89). Texts are lists of characters. Where a
function fixes a lexical point the rules leave open, log entry 7 says so. -/

namespace Sys2Proof.Machine

/-- The words a statement stands for (30 R86 to R88). -/
def expand : Stmt → List CmdWord
  | .nop => [encode .nop]
  | .pix n => [encode (.pix (BitVec.ofNat 8 n))]
  | .eoi => [encode .eoi]
  | .byte n => [encode (.byte (BitVec.ofNat 8 n))]
  | .eob => [encode .eob]
  | .drk => [encode (.pix 0#8)]
  | .brt => [encode (.pix 255#8)]
  | .word n => [BitVec.ofNat 12 n]
  | .rep n body => (List.replicate n (expand body)).flatten

/-- The words of a program in statement order (30 R86), or the first ill-formed statement. -/
def assemble : List Stmt → Except AsmError (List CmdWord)
  | [] => .ok []
  | st :: rest =>
    if st.wellFormed then
      match assemble rest with
      | .ok ws => .ok (expand st ++ ws)
      | .error e => .error e
    else .error (.illFormed st)

/-- Cut a text at every `sep`. -/
def splitAt (sep : Char) : List Char → List (List Char)
  | [] => [[]]
  | c :: cs =>
    if c = sep then [] :: splitAt sep cs
    else
      match splitAt sep cs with
      | [] => [[c]]
      | t :: ts => (c :: t) :: ts

/-- White space inside a line. PRESUMED: space, tab, carriage return (log entry 7). -/
def isBlank (c : Char) : Bool := c == ' ' || c == '\t' || c == '\r'

/-- The tokens of a line: words between blanks, and the comma of `REP` as a token of its own. -/
def tokens : List Char → List (List Char)
  | [] => []
  | c :: cs =>
    if isBlank c then tokens cs
    else if c == ',' then [','] :: tokens cs
    else
      match cs with
      | [] => [[c]]
      | d :: _ => if isBlank d || d == ',' then [c] :: tokens cs else
        match tokens cs with
        | [] => [[c]]
        | t :: ts => (c :: t) :: ts

/-- The value of a digit in a base of at most 16; both cases of a hexadecimal digit are taken (PRESUMED, log entry 7). -/
def digitValue (base : Nat) (c : Char) : Option Nat :=
  let v :=
    if '0' ≤ c ∧ c ≤ '9' then some (c.toNat - '0'.toNat)
    else if 'a' ≤ c ∧ c ≤ 'f' then some (c.toNat - 'a'.toNat + 10)
    else if 'A' ≤ c ∧ c ≤ 'F' then some (c.toNat - 'A'.toNat + 10)
    else none
  v.filter (· < base)

/-- Read digits, most significant first, on top of `acc`. -/
def digitsFrom (base acc : Nat) : List Char → Option Nat
  | [] => some acc
  | c :: cs => (digitValue base c).bind fun d => digitsFrom base (acc * base + d) cs

/-- Digits of a number, at least one. -/
def digits (base : Nat) : List Char → Option Nat
  | [] => none
  | c :: cs => digitsFrom base 0 (c :: cs)

/-- An integer in decimal, in hexadecimal with `0x`, or in binary with `0b` (30 R85). -/
def number : List Char → Option Nat
  | '0' :: 'x' :: ds => digits 16 ds
  | '0' :: 'b' :: ds => digits 2 ds
  | ds => digits 10 ds

/-- A statement that is no `REP`, from its tokens. Mnemonics are case-insensitive (30 R85). -/
def parseSimple : List (List Char) → Option Stmt
  | [m] =>
    if m.map Char.toUpper = "NOP".toList then some .nop
    else if m.map Char.toUpper = "EOI".toList then some .eoi
    else if m.map Char.toUpper = "EOB".toList then some .eob
    else if m.map Char.toUpper = "DRK".toList then some .drk
    else if m.map Char.toUpper = "BRT".toList then some .brt
    else none
  | [m, x] =>
    (number x).bind fun n =>
      if m.map Char.toUpper = "PIX".toList then some (.pix n)
      else if m.map Char.toUpper = "BYTE".toList then some (.byte n)
      else if m.map Char.toUpper = "WORD".toList then some (.word n)
      else none
  | _ => none

/-- A statement, from its tokens: a simple one, or `REP n, <statement>` with `n` in decimal (30 R88). `REP` does not nest, so
what it repeats is a simple statement. -/
def parseTokens : List (List Char) → Option Stmt
  | m :: x :: c :: rest =>
    if m.map Char.toUpper = "REP".toList ∧ c = [','] then
      (digits 10 x).bind fun n => (parseSimple rest).map (.rep n)
    else none
  | ts => parseSimple ts

/-- A line: its statement, or none when it is blank or a comment; a `;` starts a comment (30 R85). -/
def parseLine (line : List Char) : Except AsmError (Option Stmt) :=
  match tokens (line.takeWhile (· ≠ ';')) with
  | [] => .ok none
  | ts =>
    match parseTokens ts with
    | some st => .ok (some st)
    | none => .error .syntaxError

/-- The statements of a program's lines, or the first line that is none. -/
def parseLines : List (List Char) → Except AsmError (List Stmt)
  | [] => .ok []
  | line :: rest =>
    match parseLine line, parseLines rest with
    | .error e, _ => .error e
    | .ok _, .error e => .error e
    | .ok none, .ok sts => .ok sts
    | .ok (some st), .ok sts => .ok (st :: sts)

/-- A program text (30 R85) to its words (30 R86). -/
def assembleText (text : List Char) : Except AsmError (List CmdWord) :=
  match parseLines (splitAt '\n' text) with
  | .ok sts => assemble sts
  | .error e => .error e

/-- A digit as a character, hexadecimal digits in capitals. -/
def digitChar (d : Nat) : Char :=
  if d < 10 then Char.ofNat ('0'.toNat + d) else Char.ofNat ('A'.toNat + (d - 10))

/-- A word as three hexadecimal digits (30 R71, R89). -/
def hex3 (w : CmdWord) : List Char :=
  [digitChar (w.toNat / 256), digitChar (w.toNat / 16 % 16), digitChar (w.toNat % 16)]

/-- The statement a listing shows for a word (30 R86, R87): the command with its operand in decimal, or `WORD` for an illegal
word. PRESUMED, log entry 7: that form for an illegal word, and `PIX` rather than `DRK` or `BRT`. -/
def statementText (w : CmdWord) : List Char :=
  match decode w with
  | .command .nop => "NOP".toList
  | .command (.pix v) => "PIX ".toList ++ Nat.toDigits 10 v.toNat
  | .command .eoi => "EOI".toList
  | .command (.byte b) => "BYTE ".toList ++ Nat.toDigits 10 b.toNat
  | .command .eob => "EOB".toList
  | .illegal _ => "WORD 0x".toList ++ hex3 w

/-- The line of a listing that shows one word (30 R89), for example `1FF  PIX 255`. -/
def listingLine (w : CmdWord) : List Char := hex3 w ++ "  ".toList ++ statementText w

/-- The line of a listing that shows a run of `n` identical words at once (30 R89), for example `1FF x64`. -/
def runLine (w : CmdWord) (n : Nat) : List Char := hex3 w ++ " x".toList ++ Nat.toDigits 10 n

/-- A run of identical words as a listing shows it. `short` is the form taken: 30 R89 allows both, and the model leaves the
choice to the caller, run by run (DESIGN CHOICE, safe, log entry 18). -/
structure ListedRun where
  word : CmdWord
  count : Nat
  short : Bool
  deriving DecidableEq, Repr

/-- The words a run stands for. -/
def ListedRun.words (r : ListedRun) : List CmdWord := List.replicate r.count r.word

/-- The lines that show a run (30 R89): one line per word, or one line for the run. A run of no word has no line (DESIGN CHOICE,
log entry 18). -/
def runLines (r : ListedRun) : List (List Char) :=
  if r.short ∧ r.count ≠ 0 then [runLine r.word r.count] else r.words.map listingLine

/-- A listing (30 R89): the lines of its runs, in order. -/
def listing (rs : List ListedRun) : List (List Char) := rs.flatMap runLines

end Sys2Proof.Machine
end

