-- ==== Sys2Proof/Machine/Reference.lean ====
section
/-! DEFINITION. The reference functions the commands are measured by (00_scope.md R5): `Pack` (40_bitpacker.md R112),
`RleEncode` (41_rle_encoder.md R134), `RleDecode` (41 R135). Functions over buffers, not hardware. -/

namespace Sys2Proof.Machine

/-- The packing bit of a pixel of integer intensity `p`: 1 if `p ≤ 0`, else 0 (40 R112). -/
def darkBit (p : Int) : Nat := if p ≤ 0 then 1 else 0

/-- The packing bits of a pixel grid in scan order, `y` outer, `x` inner (40 R112, 20 R55). -/
def scanBits (W H : Nat) (g : Nat → Nat → Int) : List Nat :=
  (List.range H).flatMap fun y => (List.range W).map fun x => darkBit (g x y)

/-- `ceil(W*H / 8)` (40 R100). -/
def packedLength (W H : Nat) : Nat := (W * H + 7) / 8

/-- Packed byte number `k` of a sequence of bits: bits `8k` to `8k+7`, the first in bit 7 (40 R112, 30 R73). -/
def packedByte (s : List Nat) (k : Nat) : Byte :=
  BitVec.ofNat 8
    (s.getD (8 * k) 0 * 128 + s.getD (8 * k + 1) 0 * 64 + s.getD (8 * k + 2) 0 * 32 + s.getD (8 * k + 3) 0 * 16 +
      s.getD (8 * k + 4) 0 * 8 + s.getD (8 * k + 5) 0 * 4 + s.getD (8 * k + 6) 0 * 2 + s.getD (8 * k + 7) 0)

/-- `Pack(W, H, g)` (40 R112): the scan bits with zero padding at the end of the image only, cut into bytes. -/
def pack (W H : Nat) (g : Nat → Nat → Int) : List Byte :=
  (List.range (packedLength W H)).map
    (packedByte (scanBits W H g ++ List.replicate (8 * packedLength W H - W * H) 0))

/-- The inner loop of `RleEncode` (41 R134): how many of the bytes that follow equal `v`, counting at most `room`. -/
def runExtra (v : Byte) : Nat → List Byte → Nat
  | 0, _ => 0
  | _ + 1, [] => 0
  | room + 1, b :: bs => if b = v then runExtra v room bs + 1 else 0

/-- The outer loop of `RleEncode` (41 R134). The first argument bounds the number of runs. -/
def rleLoop : Nat → List Byte → List Byte
  | 0, _ => []
  | _ + 1, [] => []
  | n + 1, b :: bs =>
    BitVec.ofNat 8 (runExtra b 254 bs + 1) :: b :: rleLoop n (bs.drop (runExtra b 254 bs))

/-- `RleEncode(B)` (41 R134): greedy maximal runs of at most 255. A buffer has at most as many runs as bytes. -/
def rleEncode (B : List Byte) : List Byte := rleLoop B.length B

/-- `RleDecode(E)` (41 R135): each pair `(count, value)` becomes `count` copies of `value`. A buffer of odd length is outside
its domain (92 D23, 93 U4): none. -/
def rleDecode : List Byte → Option (List Byte)
  | [] => some []
  | [_] => none
  | c :: v :: rest => (rleDecode rest).map (List.replicate c.toNat v ++ ·)

/-- The counts of a pair sequence are all in 1 to 255 (30 R74), and its length is even. -/
def countsLegal : List Byte → Bool
  | [] => true
  | [_] => false
  | c :: _ :: rest => c != 0#8 && countsLegal rest

/-- Two consecutive pairs `(c1, v1)`, `(c2, v2)` have `v1 ≠ v2` or `c1 = 255` (41 R137). -/
def neighboursMaximal : List Byte → Bool
  | c1 :: v1 :: c2 :: v2 :: rest => (v1 != v2 || c1 == 255#8) && neighboursMaximal (c2 :: v2 :: rest)
  | _ => true

end Sys2Proof.Machine
end

