-- ==== Sys2Proof/Machine/Context.lean ====
section
/-! DEFINITION. The software around the block, as reference functions (43_frame_record_context.md): the payloads a consumer reads
off `OUT`, the container record, the container, the offset table, the flat array. Nothing here is hardware (00_scope.md R6). -/

namespace Sys2Proof.Machine

/-- The payloads of a stream on `OUT`, first first, where `held` are the bytes since the last `END`. Bytes that no `END` follows
are no payload (70 R217). -/
def payloadsFrom (held : List Byte) : List Event → List (List Byte)
  | [] => []
  | .byte b :: es => payloadsFrom (held ++ [b]) es
  | .endMark :: es => held :: payloadsFrom [] es

/-- The payloads the block has put on `OUT` in this run: of each completed buffer the bytes between two `END` events (43 R160),
of the first one those between reset and the first `END` (20 R59). -/
def State.payloads (s : State) : List (List Byte) := payloadsFrom [] s.out

/-- `Record(P)` (43 R160): two length bytes, low byte first, then the payload. Above 65535 bytes it is undefined and the
writer aborts (43 R161): none (log entry 6). -/
def record (P : List Byte) : Option (List Byte) :=
  if P.length ≤ 65535 then
    some (BitVec.ofNat 8 (P.length % 256) :: BitVec.ofNat 8 (P.length / 256) :: P)
  else none

/-- `Container([P_0, ...])` (43 R162): the records in sequence order, with nothing before, between or after;
none where a payload has no record and the writer aborts (43 R161, log entry 6).
DESIGN CHOICE, unsafe, log entry 17: for no frame at all, of which 43 R170 gives no result, it is the empty buffer. -/
def container : List (List Byte) → Option (List Byte)
  | [] => some []
  | P :: Ps => (record P).bind fun r => (container Ps).map (r ++ ·)

/-- The offsets from `o` on: `offset[i+1] = offset[i] + 2 + len(P_i)` (43 R167). DESIGN CHOICE, unsafe, log
entry 16: an offset is a natural number without bound; the width of an entry is not given (43 R167, 91 N12). -/
def offsetsFrom (o : Nat) : List (List Byte) → List Nat
  | [] => []
  | P :: Ps => o :: offsetsFrom (o + 2 + P.length) Ps

/-- The offset table, one entry per frame, `offset[0] = 0` (43 R167, 90 C7). DESIGN CHOICE: entries without bound, log entry
16, unsafe; no entry for no frame (43 R170), log entry 17, unsafe. -/
def offsetTable (Ps : List (List Byte)) : List Nat := offsetsFrom 0 Ps

/-- The trailing total byte count, `offset[k]` of the recurrence (43 R167). DESIGN CHOICE: a number without bound, log entry
16, unsafe; 0 for no frame (43 R170), log entry 17, unsafe. -/
def totalBytes : List (List Byte) → Nat
  | [] => 0
  | P :: Ps => 2 + P.length + totalBytes Ps

/-- The flat array of the embeddable source: the same bytes as the container (43 R168), for no frame as well
(DESIGN CHOICE, unsafe, log entry 17). -/
def flatArray (Ps : List (List Byte)) : Option (List Byte) := container Ps

end Sys2Proof.Machine
end

