-- ==== Sys2Proof/Safety.lean ====
section
/-! DEFINITION. What may be said of a state of a run: the flushed state (10_state.md R42), how a run has ended
(70_reset_and_hazards.md R230), and the invariants (10 R41, R31, R26; 20_memory.md R59; 41_rle_encoder.md R120,
R121, R123). -/

namespace Sys2Proof.Machine

/-- The flushed state (10 R42). -/
structure State.Flushed (s : State) : Prop where
  nb : s.nb = 0#4
  pcnt : s.pcnt = 0#32
  rcnt : s.rcnt = 0#8
  fault : s.fault = false

/-- No data is held inside the block (10 R38): no partial byte, no open run. -/
def State.holdsNothing (s : State) : Bool := !s.bpPartial && !s.runOpen

/-- The command words the host has yet to issue in this run: those before its next reset, since a run is the commands between
two resets (00 R16); new values on the configuration inputs are no command (70 R232). -/
def commandsLeft : List HostAction → List CmdWord
  | [] => []
  | .issue w :: as => w :: commandsLeft as
  | .configure _ :: as => commandsLeft as
  | .reset :: _ => []

/-- The host has no more commands to issue in this run and the block is flushed (70 R230). -/
def State.endedWell (s : State) : Prop := commandsLeft s.input = [] ∧ s.Flushed

/-- The run has ended badly (70 R230). -/
def State.endedBadly (s : State) : Prop := s.fault = true

/-- Commands exhausted with data still held, and no fault: an unfinished run (70 R230). -/
def State.unfinished (s : State) : Prop :=
  commandsLeft s.input = [] ∧ s.fault = false ∧ (s.nb ≠ 0#4 ∨ s.pcnt ≠ 0#32 ∨ s.rcnt ≠ 0#8)

/-- The stage a diagnostic names (10 R34, 60 R186). -/
inductive Stage where
  | commandDecoder
  | bitPacker
  deriving DecidableEq, Repr

/-- Which stage failed, for the host's diagnostic: `PIX` or `EOI` in `FINFO` means the BitPacker, any other word the command
decoder (10 R34); none while the block has not faulted. A word that only has the opcode of `EOI` is no `EOI` (30 R82), which
is how `STATUS.CAUSE` tells it too. -/
def State.failedStage (s : State) : Option Stage :=
  if s.fault then
    match decode s.finfo with
    | .command (.pix _) => some .bitPacker
    | .command .eoi => some .bitPacker
    | .command .nop => some .commandDecoder
    | .command (.byte _) => some .commandDecoder
    | .command .eob => some .commandDecoder
    | .illegal _ => some .commandDecoder
  else none

/-- How many `B` events a stream holds since its last `END`, or since its start, counting on from `n`. -/
def bytesSinceEndFrom (n : Nat) : List Event → Nat
  | [] => n
  | .byte _ :: es => bytesSinceEndFrom (n + 1) es
  | .endMark :: es => bytesSinceEndFrom 0 es

/-- How many `B` events a stream holds since its last `END` (10 R41 (g)). -/
def bytesSinceEnd (es : List Event) : Nat := bytesSinceEndFrom 0 es

/-- How many `END` events a stream holds (10 R26). -/
def endCount : List Event → Nat
  | [] => 0
  | .byte _ :: es => endCount es
  | .endMark :: es => endCount es + 1

/-- A stream of whole pairs and `END` events: every count byte is followed by its value byte and is not 0, no pair is split
by an `END` (20 R59, 30 R74). -/
def wholePairs : List Event → Bool
  | [] => true
  | .endMark :: es => wholePairs es
  | .byte c :: .byte _ :: es => c != 0#8 && wholePairs es
  | .byte _ :: .endMark :: _ => false
  | [.byte _] => false

/-- The most events a command emits on `PK` (70 R228). -/
def maxPkEvents : Instr → Nat
  | .nop => 0
  | .pix _ => 1
  | .eoi => 2
  | .byte _ => 0
  | .eob => 0

/-- The most events a command emits on `OUT` (70 R228). -/
def maxOutEvents : Instr → Nat
  | .nop => 0
  | .pix _ => 2
  | .eoi => 5
  | .byte _ => 2
  | .eob => 3

/-- The host actions that issue the commands `is`, in order. -/
def issues (is : List Instr) : List HostAction := is.map fun i => .issue (encode i)

/-- The host action offers a command word. -/
def HostAction.isIssue : HostAction → Bool
  | .issue _ => true
  | .configure _ => false
  | .reset => false

/-- The invariants of a state that a run can reach. -/
structure State.Inv (s : State) : Prop where
  /-- 10 R41 (a): `NB = PCNT mod 8`, hence `NB ≤ 7`. -/
  nbMod : s.nb.toNat = s.pcnt.toNat % 8
  /-- 10 R41 (b): `PCNT ≤ CFG_W * CFG_H`. -/
  pcntLe : s.pcnt.toNat ≤ s.area
  /-- 10 R41 (d): `ACC < 2^NB`. -/
  accLt : s.acc.toNat < 2 ^ s.nb.toNat
  /-- 10 R41 (f): `CAUSE = 0` if and only if `FAULT = 0`. -/
  causeIff : s.cause = 0#3 ↔ s.fault = false
  /-- 10 R31: `CAUSE` values 4 to 7 never occur. -/
  causeLe : s.cause.toNat ≤ 3
  /-- 10 R41 (f): `FINFO = 0` if `FAULT = 0`. -/
  finfoZero : s.fault = false → s.finfo = 0#12
  /-- 10 R41 (g): the `B` events on `PK` since the last `END` number `PCNT div 8`. -/
  pkBytes : bytesSinceEnd s.pk = s.pcnt.toNat / 8
  /-- 20 R59: pairs on `OUT` are whole. -/
  outPairs : wholePairs s.out = true
  /-- With no run open, every byte on `OUT` stands before an `END`: a pair leaves the RLE unit only where another run opens or
  an `END` follows (41 R120, R121, R123). -/
  outClosed : s.rcnt = 0#8 → bytesSinceEnd s.out = 0
  /-- 10 R26: `FIDX` is the number of `END` events on `OUT` since reset, modulo 2^32. -/
  fidxEnds : s.fidx = BitVec.ofNat 32 (endCount s.out)

end Sys2Proof.Machine
end

