-- ==== Sys2Proof/Certificates/Slice0/Obligations.lean ====
section
/-! DEFINITION. The statements for the provers. Each docstring names the rules of spec/ the statement formalises. -/

open Sys2Proof Sys2Proof.Machine

/-! ## Encoding -/

/-- Thirteen words of 95_test_vectors.md section 4 decode as it says (30 R90). -/
def Obligations.DecodeOfWrittenWords : Prop :=
  decode 0x000#12 = .command .nop ∧ decode 0x001#12 = .illegal .nonZeroArg ∧
  decode 0x0FF#12 = .illegal .nonZeroArg ∧ decode 0x100#12 = .command (.pix 0#8) ∧
  decode 0x1FF#12 = .command (.pix 255#8) ∧ decode 0x200#12 = .command .eoi ∧
  decode 0x201#12 = .illegal .nonZeroArg ∧ decode 0x300#12 = .command (.byte 0#8) ∧
  decode 0x3A5#12 = .command (.byte 0xA5#8) ∧ decode 0x400#12 = .command .eob ∧
  decode 0x4FF#12 = .illegal .nonZeroArg ∧ decode 0x500#12 = .illegal .reservedOpcode ∧
  decode 0xFFF#12 = .illegal .reservedOpcode

/-- Decoding and encoding agree in both directions, for every command and every word: no bit of an encoding is dropped, and
no second word means the same command (30 R80, R86, R90). -/
def Obligations.DecodeEncodeAgree : Prop :=
  ∀ (i : Instr) (w : CmdWord), decode w = .command i ↔ w = encode i

/-- 30 R80: a word is the command of the one row it matches, and a word that matches no row is no command. -/
def Obligations.OpcodeMapIsDecode : Prop :=
  ∀ w : CmdWord,
    (∀ i, decode w = .command i → (opcodeTable.filter (rowMatches · w)).map (·.1) = [i.mnemonic]) ∧
    (∀ why, decode w = .illegal why → opcodeTable.filter (rowMatches · w) = [])

/-- 30 R81, R82: exactly which words are reserved, and on which of the two grounds. -/
def Obligations.ReservedWords : Prop :=
  ∀ w : CmdWord,
    (decode w = .illegal .reservedOpcode ↔ 5 ≤ w.op.toNat) ∧
    (decode w = .illegal .nonZeroArg ↔ (w.op = 0x0#4 ∨ w.op = 0x2#4 ∨ w.op = 0x4#4) ∧ w.arg ≠ 0#8)

/-- 30 R88: `REP n, <statement>` is `n` copies of the statement's words, and `REP` does not nest. -/
def Obligations.RepExpandsToCopies : Prop :=
  (∀ (n : Nat) (st : Stmt) (ws : List CmdWord), st.isRep = false → assemble [st] = .ok ws →
      assemble [.rep n st] = .ok (List.replicate n ws).flatten) ∧
  (∀ (n m : Nat) (st : Stmt), assemble [.rep n (.rep m st)] = .error (.illFormed (.rep n (.rep m st)))) ∧
  assembleText "REP 64, BRT".toList = .ok (List.replicate 64 0x1FF#12)

/-- 30 R85: an operand outside 0 to 255 is an assembly error; inside, it is the operand of the word. -/
def Obligations.AssemblerChecksOperands : Prop :=
  (∀ n : Nat, n ≤ 255 → assemble [.pix n] = .ok [0x100#12 + BitVec.ofNat 12 n]) ∧
  (∀ n : Nat, n ≤ 255 → assemble [.byte n] = .ok [0x300#12 + BitVec.ofNat 12 n]) ∧
  (∀ n : Nat, 255 < n → assemble [.pix n] = .error (.illFormed (.pix n)) ∧
    assemble [.byte n] = .error (.illFormed (.byte n)))

/-- 30 R85, R86, R87, R89: assembling the statement a listing shows for a word gives that word back, for all 4096 words. How a
listing writes an illegal word, and the lexical points of a text, are the model's choice, log entry 7 (PRESUMED). -/
def Obligations.ListingAssemblesBack : Prop :=
  ∀ w : CmdWord, assembleText (statementText w) = .ok [w]

/-! ## The step -/

/-- A step runs the decoded command: when the next host action offers a word that decodes to a command, the step is that
command on the state with the word consumed, and nothing else (20 R52, R63). -/
def Obligations.StepRunsTheOfferedCommand : Prop :=
  ∀ (s : State) (w : CmdWord) (rest : List HostAction) (i : Instr),
    s.input = .issue w :: rest → decode w = .command i → step s = exec i { s with input := rest }

/-- 60 R182: a word that is no command (`op` in `0x5` to `0xF`, or a format-N opcode with `arg ≠ 0`) latches cause 1 and the
word, whatever else the state holds, and changes nothing else. -/
def Obligations.IllegalWordLatches : Prop :=
  ∀ (s : State) (w : CmdWord) (rest : List HostAction),
    s.input = .issue w :: rest → s.fault = false →
    (5 ≤ w.op.toNat ∨ ((w.op = 0x0#4 ∨ w.op = 0x2#4 ∨ w.op = 0x4#4) ∧ w.arg ≠ 0#8)) →
    step s = .next { s with input := rest, fault := true, cause := 1#3, finfo := w }

/-- 60 R189: while `STATUS.FAULT = 1` every word, legal or illegal, is accepted and discarded, and the state is no good end of
a run (70 R230). -/
def Obligations.FaultedBlockDiscardsEveryWord : Prop :=
  ∀ (s : State) (w : CmdWord) (rest : List HostAction),
    s.fault = true → s.input = .issue w :: rest →
    step s = .next { s with input := rest } ∧ ¬ s.endedWell ∧ ¬ State.endedWell { s with input := rest }

/-- 60 R188: whatever command word raises a fault, the step latches `FAULT`, a cause from 1 to 3 and the word, and changes and
emits nothing else. -/
def Obligations.RaisingChangesTheLatchOnly : Prop :=
  ∀ (s t : State) (w : CmdWord) (rest : List HostAction),
    s.input = .issue w :: rest → s.fault = false → step s = .next t → t.fault = true →
    ∃ c : BitVec 3, 1 ≤ c.toNat ∧ c.toNat ≤ 3 ∧
      t = { s with input := rest, fault := true, cause := c, finfo := w }

/-- 60 R181, R185, R187: exactly when a command word raises a fault, and with which cause. An illegal word raises cause 1
whatever `PCNT` is; then `PIX` on a full image raises 2; then `EOI` on an image that is not full raises 3; nothing else does. -/
def Obligations.CauseOfEveryFault : Prop :=
  ∀ (s t : State) (w : CmdWord) (rest : List HostAction),
    s.input = .issue w :: rest → s.fault = false → step s = .next t →
    (t.fault = true ↔
      (∃ why, decode w = .illegal why) ∨ ((∃ v, decode w = .command (.pix v)) ∧ s.pcnt.toNat = s.cfgW.toNat * s.cfgH.toNat) ∨
      (decode w = .command .eoi ∧ s.pcnt.toNat ≠ s.cfgW.toNat * s.cfgH.toNat)) ∧
    (t.fault = true →
      ((∃ why, decode w = .illegal why) → t.cause = 1#3) ∧
      ((∃ v, decode w = .command (.pix v)) → t.cause = 2#3) ∧
      (decode w = .command .eoi → t.cause = 3#3))

/-- 60 R192, 10 R31: a step leaves the faulted state by a reset only; any other step keeps `FAULT`, the first `CAUSE` and
`FINFO`, and every register and event with them. -/
def Obligations.OnlyResetLeavesTheFault : Prop :=
  ∀ s t : State, s.fault = true → step s = .next t →
    (s.input.head? = some .reset ∧ t.fault = false) ∨
    (s.input.head? ≠ some .reset ∧ t = { s with input := t.input, cfgIn := t.cfgIn })

/-- 70 R213: a reset latches the configuration inputs, and no other step, whatever it meets, changes `CFG_W` or `CFG_H`
(10 R29, 70 R225). -/
def Obligations.OnlyResetLatchesConfiguration : Prop :=
  ∀ s t : State, step s = .next t →
    (s.input.head? = some .reset → t.cfgW = s.cfgIn.W ∧ t.cfgH = s.cfgIn.H) ∧
    (s.input.head? ≠ some .reset → t.cfgW = s.cfgW ∧ t.cfgH = s.cfgH)

/-- 10 R40 at a reset in any state, faulted or not (70 R210): every register holds the value of the table. -/
def Obligations.ResetStepGivesResetValues : Prop :=
  ∀ (s : State) (rest : List HostAction), s.input = .reset :: rest →
    ∃ t, step s = .next t ∧ t.input = rest ∧ t.acc = 0#8 ∧ t.nb = 0#4 ∧ t.pcnt = 0#32 ∧ t.rval = 0#8 ∧ t.rcnt = 0#8 ∧
      t.fidx = 0#32 ∧ t.status = 0#8 ∧ t.finfo = 0#12 ∧ t.cfgW = s.cfgIn.W ∧ t.cfgH = s.cfgIn.H

/-- 10 R40: the registers right after reset, with any configuration. -/
def Obligations.RegistersAfterReset : Prop :=
  ∀ cfg : Cfg, (State.resetWith cfg).acc = 0#8 ∧ (State.resetWith cfg).nb = 0#4 ∧ (State.resetWith cfg).pcnt = 0#32 ∧
    (State.resetWith cfg).rval = 0#8 ∧ (State.resetWith cfg).rcnt = 0#8 ∧ (State.resetWith cfg).fidx = 0#32 ∧
    (State.resetWith cfg).status = 0#8 ∧ (State.resetWith cfg).finfo = 0#12 ∧ (State.resetWith cfg).cfgW = cfg.W ∧
    (State.resetWith cfg).cfgH = cfg.H

/-- 20 R51, 70 R211: no step changes or withdraws an event. A step that is no reset appends to the two streams of the run; a
reset emits nothing and keeps both streams as those of an earlier run (that they are kept there is the model's choice, log
entry 3). -/
def Obligations.EmittedEventsStay : Prop :=
  ∀ s t : State, step s = .next t →
    (s.input.head? ≠ some .reset →
      s.pk <+: t.pk ∧ s.out <+: t.out ∧ t.earlier = s.earlier) ∧
    (s.input.head? = some .reset →
      t.pk = [] ∧ t.out = [] ∧ t.earlier = s.earlier ++ [Outputs.mk s.pk s.out])

/-- Every step has a next state: every accepted command completes (70 R229), and with nothing offered the block waits (the
model's reading, log entry 2); consumers that stall are not represented (log entry 4). -/
def Obligations.EveryStepCompletes : Prop :=
  (∀ s : State, ∃ t, step s = .next t) ∧ (∀ s : State, s.input = [] → step s = .next s)

/-! ## The commands -/

/-- 42 R150: `NOP` leaves every state as it is; its word is `0x000`, and the words `0x001` to `0x0FF` are illegal. -/
def Obligations.NopLeavesTheState : Prop :=
  encode .nop = 0x000#12 ∧ (∀ n : Nat, 1 ≤ n → n ≤ 255 → decode (BitVec.ofNat 12 n) = .illegal .nonZeroArg) ∧
  ∀ s : State, exec .nop s = .next s

/-- 40 R102: `PIX v`, in each of its cases. The last two are where it takes the pixel: the eighth bit of a byte emits the
byte on `PK` and hands it to the RLE unit. -/
def Obligations.PixTakesAPixel : Prop :=
  ∀ (v : Byte) (s : State),
    encode (.pix v) = 0x100#12 + v.setWidth 12 ∧
    (s.fault = true → exec (.pix v) s = .next s) ∧
    (s.fault = false → s.pcnt.toNat = s.cfgW.toNat * s.cfgH.toNat →
      exec (.pix v) s = .next { s with fault := true, cause := 2#3, finfo := 0x100#12 + v.setWidth 12 }) ∧
    (∀ b : Byte, b = BitVec.ofNat 8 (2 * s.acc.toNat + if v = 0#8 then 1 else 0) →
      s.fault = false → s.pcnt.toNat ≠ s.cfgW.toNat * s.cfgH.toNat →
      (s.nb + 1#4 ≠ 8#4 → exec (.pix v) s = .next { s with acc := b, nb := s.nb + 1#4, pcnt := s.pcnt + 1#32 }) ∧
      (s.nb + 1#4 = 8#4 →
        exec (.pix v) s =
          .next { State.rleByte b { s with pk := s.pk ++ [.byte b], pcnt := s.pcnt + 1#32 } with
                  acc := 0#8, nb := 0#4 }))

/-- 40 R103: `EOI`, in each of its cases. With a partial byte, that byte is padded with zeros below, emitted on `PK` and given
to the RLE unit first. -/
def Obligations.EoiEndsAnImage : Prop :=
  encode .eoi = 0x200#12 ∧
  ∀ s : State,
    (s.fault = true → exec .eoi s = .next s) ∧
    (s.fault = false → s.pcnt.toNat ≠ s.cfgW.toNat * s.cfgH.toNat →
      exec .eoi s = .next { s with fault := true, cause := 3#3, finfo := 0x200#12 }) ∧
    (s.fault = false → s.pcnt.toNat = s.cfgW.toNat * s.cfgH.toNat → s.nb = 0#4 →
      exec .eoi s =
        .next { s.rleFlush with
          pk := s.pk ++ [.endMark], out := s.rleFlush.out ++ [.endMark], pcnt := 0#32, fidx := s.fidx + 1#32 }) ∧
    (∀ b : Byte, b = BitVec.ofNat 8 (s.acc.toNat * 2 ^ (8 - s.nb.toNat)) →
      s.fault = false → s.pcnt.toNat = s.cfgW.toNat * s.cfgH.toNat → s.nb ≠ 0#4 →
      exec .eoi s =
        .next { (s.rleByte b).rleFlush with
          acc := 0#8, nb := 0#4, pk := s.pk ++ [.byte b, .endMark], out := (s.rleByte b).rleFlush.out ++ [.endMark],
          pcnt := 0#32, fidx := s.fidx + 1#32 })

/-- 41 R122: `BYTE b` gives the byte to the RLE unit and does nothing else; it raises no fault. -/
def Obligations.ByteFeedsTheEncoder : Prop :=
  ∀ (b : Byte) (s : State),
    encode (.byte b) = 0x300#12 + b.setWidth 12 ∧
    (s.fault = true → exec (.byte b) s = .next s) ∧
    (s.fault = false → exec (.byte b) s = .next (s.rleByte b))

/-- 41 R123: `EOB` flushes the RLE unit, marks the end on `OUT` and counts the buffer; the BitPacker and `PK` stay. -/
def Obligations.EobClosesTheBuffer : Prop :=
  encode .eob = 0x400#12 ∧
  ∀ s : State,
    (s.fault = true → exec .eob s = .next s) ∧
    (s.fault = false → s.rcnt = 0#8 →
      exec .eob s = .next { s with out := s.out ++ [.endMark], fidx := s.fidx + 1#32 }) ∧
    (s.fault = false → s.rcnt ≠ 0#8 →
      exec .eob s =
        .next { s with
          rcnt := 0#8, out := s.out ++ [.byte s.rcnt, .byte s.rval, .endMark], fidx := s.fidx + 1#32 })

/-- 41 R120: the three cases of `RleByte(b)`, and a run is open afterwards. -/
def Obligations.RleByteProcedure : Prop :=
  ∀ (b : Byte) (s : State),
    (s.rcnt = 0#8 → s.rleByte b = { s with rval := b, rcnt := 1#8 }) ∧
    (s.rcnt ≠ 0#8 → b = s.rval → s.rcnt.toNat < 255 → s.rleByte b = { s with rcnt := s.rcnt + 1#8 }) ∧
    (s.rcnt ≠ 0#8 → (b ≠ s.rval ∨ s.rcnt.toNat = 255) →
      s.rleByte b = { s with rval := b, rcnt := 1#8, out := s.out ++ [.byte s.rcnt, .byte s.rval] }) ∧
    1 ≤ (s.rleByte b).rcnt.toNat

/-- 41 R121: `RleFlush()` emits the open run as count then value and closes it; with no run open it does nothing. -/
def Obligations.RleFlushProcedure : Prop :=
  ∀ s : State,
    (s.rcnt = 0#8 → s.rleFlush = s) ∧
    (s.rcnt ≠ 0#8 → s.rleFlush = { s with rcnt := 0#8, out := s.out ++ [.byte s.rcnt, .byte s.rval] })

/-- 40 R101, 30 R79: only intensity 0 is dark; every other intensity packs to 0, and no two bright pixels differ in effect. -/
def Obligations.OnlyZeroIsDark : Prop :=
  packBit 0#8 = 1#1 ∧ (∀ v : Byte, v ≠ 0#8 → packBit v = 0#1) ∧
  ∀ (v u : Byte) (s : State), v ≠ 0#8 → u ≠ 0#8 → s.pcnt.toNat ≠ s.cfgW.toNat * s.cfgH.toNat →
    exec (.pix v) s = exec (.pix u) s

/-- 60 R183: `PIX` on a full image latches cause 2 and its word and packs nothing. -/
def Obligations.DimOverrunLatches : Prop :=
  ∀ (v : Byte) (s : State), s.fault = false → s.pcnt.toNat = s.cfgW.toNat * s.cfgH.toNat →
    ∃ t, exec (.pix v) s = .next t ∧ t.fault = true ∧ t.cause = 2#3 ∧ t.finfo.toNat = 0x100 + v.toNat ∧
      t.acc = s.acc ∧ t.nb = s.nb ∧ t.pcnt = s.pcnt ∧ t.rval = s.rval ∧ t.rcnt = s.rcnt ∧ t.fidx = s.fidx ∧
      t.pk = s.pk ∧ t.out = s.out

/-- 60 R184: `EOI` on an image with fewer than `W*H` pixels latches cause 3 and `0x200`; nothing is flushed or emitted. -/
def Obligations.DimUnderrunLatches : Prop :=
  ∀ s : State, s.fault = false → s.pcnt.toNat < s.cfgW.toNat * s.cfgH.toNat →
    ∃ t, exec .eoi s = .next t ∧ t.fault = true ∧ t.cause = 3#3 ∧ t.finfo = 0x200#12 ∧
      t.acc = s.acc ∧ t.nb = s.nb ∧ t.pcnt = s.pcnt ∧ t.rval = s.rval ∧ t.rcnt = s.rcnt ∧ t.fidx = s.fidx ∧
      t.pk = s.pk ∧ t.out = s.out

/-- 40 R116: with a zero dimension every pixel of an unfaulted block overruns (`PCNT` is then 0, 10 R41 (b)), and `EOI` from a
flushed state gives an empty packed buffer and an empty RLE stream. -/
def Obligations.EmptyImage : Prop :=
  ∀ s : State, (s.cfgW = 0#16 ∨ s.cfgH = 0#16) →
    (∀ v : Byte, s.fault = false → s.pcnt = 0#32 →
      exec (.pix v) s = .next { s with fault := true, cause := 2#3, finfo := 0x100#12 + v.setWidth 12 }) ∧
    (s.Flushed → ∃ t, exec .eoi s = .next t ∧ t.pk = s.pk ++ [.endMark] ∧ t.out = s.out ++ [.endMark] ∧ t.Flushed)

/-! ## Frames -/

/-- What no command touches: the configuration, its inputs, the host's further actions, earlier runs' streams (10 R27, R29,
R35). -/
def Obligations.NoCommandTouchesItsSurroundings : Prop :=
  ∀ (i : Instr) (s t : State), exec i s = .next t →
    t.cfgW = s.cfgW ∧ t.cfgH = s.cfgH ∧ t.cfgIn = s.cfgIn ∧ t.input = s.input ∧ t.earlier = s.earlier

/-- The frame of `BYTE` and `EOB` (10 R27): the BitPacker, `STATUS`'s stored bits, `FINFO` and `PK` stay; `BYTE` leaves `FIDX`,
`EOB` leaves `RVAL`. -/
def Obligations.ByteAndEobFrame : Prop :=
  ∀ (i : Instr) (s t : State), ((∃ b, i = .byte b) ∨ i = .eob) → exec i s = .next t →
    t.acc = s.acc ∧ t.nb = s.nb ∧ t.pcnt = s.pcnt ∧ t.fault = s.fault ∧ t.cause = s.cause ∧ t.finfo = s.finfo ∧
    t.pk = s.pk ∧ ((∃ b, i = .byte b) → t.fidx = s.fidx) ∧ (i = .eob → t.rval = s.rval)

/-- The frame of `PIX` (10 R27): `FIDX` stays. Unless it is the eighth bit of a byte, the RLE unit and both streams stay.
Unless it overruns, `STATUS`'s stored bits and `FINFO` stay; if it overruns, everything else stays. -/
def Obligations.PixFrame : Prop :=
  ∀ (v : Byte) (s t : State), exec (.pix v) s = .next t →
    t.fidx = s.fidx ∧
    (s.nb + 1#4 ≠ 8#4 → t.rval = s.rval ∧ t.rcnt = s.rcnt ∧ t.pk = s.pk ∧ t.out = s.out) ∧
    (s.pcnt.toNat ≠ s.cfgW.toNat * s.cfgH.toNat → t.fault = s.fault ∧ t.cause = s.cause ∧ t.finfo = s.finfo) ∧
    (s.pcnt.toNat = s.cfgW.toNat * s.cfgH.toNat →
      t = { s with fault := t.fault, cause := t.cause, finfo := t.finfo })

/-- The frame of `EOI` (10 R27): on a full image `STATUS`'s stored bits and `FINFO` stay, and without a partial byte `RVAL`,
`ACC` and `NB` stay; on an image that is not full nothing but the latch changes. -/
def Obligations.EoiFrame : Prop :=
  ∀ s t : State, exec .eoi s = .next t →
    (s.pcnt.toNat = s.cfgW.toNat * s.cfgH.toNat → t.fault = s.fault ∧ t.cause = s.cause ∧ t.finfo = s.finfo ∧
      (s.nb = 0#4 → t.acc = s.acc ∧ t.nb = s.nb ∧ t.rval = s.rval)) ∧
    (s.pcnt.toNat ≠ s.cfgW.toNat * s.cfgH.toNat →
      t = { s with fault := t.fault, cause := t.cause, finfo := t.finfo })

/-- 70 R228: the streams only grow, by at most the events of the table. -/
def Obligations.MostEventsOfACommand : Prop :=
  ∀ (i : Instr) (s t : State), exec i s = .next t →
    ∃ e f : List Event, t.pk = s.pk ++ e ∧ t.out = s.out ++ f ∧ e.length ≤ maxPkEvents i ∧ f.length ≤ maxOutEvents i

/-! ## Registers the host sees -/

/-- 10 R36: the register view shows each register, zero-extended, under its number. -/
def Obligations.RegisterView : Prop :=
  ∀ s : State,
    (s.view 0).toNat = s.cfgW.toNat ∧ (s.view 1).toNat = s.cfgH.toNat ∧ (s.view 2).toNat = s.status.toNat ∧
    (s.view 3).toNat = s.finfo.toNat ∧ (s.view 4).toNat = s.fidx.toNat ∧ (s.view 5).toNat = s.pcnt.toNat ∧
    (s.view 6).toNat = s.acc.toNat ∧ (s.view 7).toNat = s.nb.toNat ∧ (s.view 8).toNat = s.rval.toNat ∧
    (s.view 9).toNat = s.rcnt.toNat ∧ ∀ n : Fin 16, 10 ≤ n.val → s.view n = 0#32

/-- 10 R30, R32, 60 R191: the bits of `STATUS`, and the `FAULT` output equals bit 0. -/
def Obligations.StatusLayout : Prop :=
  ∀ s : State,
    s.status.getLsbD 0 = s.fault ∧ s.status.extractLsb' 1 3 = s.cause ∧
    (s.status.getLsbD 4 = true ↔ s.rcnt ≠ 0#8) ∧ (s.status.getLsbD 5 = true ↔ s.nb ≠ 0#4) ∧
    (s.status.getLsbD 6 = true ↔ s.pcnt ≠ 0#32) ∧ s.status.getLsbD 7 = false ∧ s.faultPin = s.status.getLsbD 0

/-! ## Invariants -/

/-- The invariants hold after reset, with every configuration (10 R40, R41); the configuration of
`State.reset` is the model's choice, log entry 1. -/
def Obligations.ResetMeetsTheInvariants : Prop :=
  (∀ cfg : Cfg, (State.resetWith cfg).Inv) ∧ State.reset.Inv

/-- Every step keeps the invariants, from every state that meets them: 10 R41 (a), (b), (d), (f), (g), 10 R31 (no cause above
3), 10 R26 (`FIDX` counts the `END` events on `OUT`), 20 R59 (whole pairs on `OUT`), 41 R120, R121, R123 (with no run open
every byte on `OUT` stands before an `END`). -/
def Obligations.EveryStepKeepsTheInvariants : Prop :=
  ∀ s t : State, s.Inv → step s = .next t → t.Inv

/-- 40 R109, 41 R128: `PCNT`, `NB` and `RCNT` never wrap, `FIDX` wraps modulo 2^32. -/
def Obligations.OnlyFidxWraps : Prop :=
  (∀ (v : Byte) (s t : State), s.Inv → s.fault = false → exec (.pix v) s = .next t → t.fault = false →
    t.pcnt.toNat = s.pcnt.toNat + 1 ∧ t.pcnt.toNat ≤ 4294836225 ∧ (s.nb + 1#4).toNat = s.nb.toNat + 1 ∧
    s.nb.toNat + 1 ≤ 8) ∧
  (∀ (b : Byte) (s : State), s.rcnt ≠ 0#8 → b = s.rval → s.rcnt.toNat < 255 →
    (s.rleByte b).rcnt.toNat = s.rcnt.toNat + 1) ∧
  (∀ s t : State, s.fault = false → exec .eob s = .next t → t.fidx.toNat = (s.fidx.toNat + 1) % 2 ^ 32)

/-- 10 R42: which steps leave the block flushed. Reset's is; `EOI` without fault leaves one; `EOB` leaves one if `PCNT = 0` before. -/
def Obligations.WhatLeavesTheBlockFlushed : Prop :=
  (∀ cfg : Cfg, (State.resetWith cfg).Flushed) ∧
  (∀ s t : State, s.fault = false → exec .eoi s = .next t → t.fault = false → t.Flushed) ∧
  (∀ s t : State, s.Inv → s.fault = false → s.pcnt = 0#32 → exec .eob s = .next t → t.Flushed)

/-- 10 R42, R41 (e), 20 R65: two flushed states with one configuration that are given the same command words emit the same
events, however long they run and whatever `ACC`, `RVAL` and `FIDX` they hold. -/
def Obligations.FlushedStatesBehaveAlike : Prop :=
  ∀ (s₁ s₂ : State) (k : Nat), s₁.Flushed → s₂.Flushed → s₁.cfgW = s₂.cfgW → s₁.cfgH = s₂.cfgH →
    s₁.input = s₂.input → (∀ a ∈ s₁.input, a.isIssue = true) →
    ∃ (t₁ t₂ : State) (p o : List Event),
      Host.Core.run core k s₁ = .next t₁ ∧ Host.Core.run core k s₂ = .next t₂ ∧
      t₁.pk = s₁.pk ++ p ∧ t₂.pk = s₂.pk ++ p ∧ t₁.out = s₁.out ++ o ∧ t₂.out = s₂.out ++ o

/-- 10 R24, 41 R122 (e): a stale `RVAL` has no effect. One step from two states that differ in `RVAL` alone, with no run open,
gives states that differ in `RVAL` at most, and then with no run open. -/
def Obligations.StaleRvalHasNoEffect : Prop :=
  ∀ (s t : State) (x : Byte), s.rcnt = 0#8 → step s = .next t →
    step { s with rval := x } = .next t ∨ (t.rcnt = 0#8 ∧ step { s with rval := x } = .next { t with rval := x })

/-- 70 R230: with no command left to issue in this run (configuration actions and the next reset are no command of it, 00 R16,
70 R232) a run has ended well, or badly, or is unfinished, and only one of these; a run that has ended
well holds no data (10 R38). -/
def Obligations.RunEndsInOneOfThreeWays : Prop :=
  ∀ s : State, commandsLeft s.input = [] →
    (s.endedWell ∨ s.endedBadly ∨ s.unfinished) ∧ ¬ (s.endedWell ∧ s.endedBadly) ∧ ¬ (s.endedWell ∧ s.unfinished) ∧
    ¬ (s.endedBadly ∧ s.unfinished) ∧ (s.endedWell → s.holdsNothing = true)

/-- 60 R186, 10 R34: what a fault records for the host's diagnostic. The stage is the command decoder exactly for cause 1 and
the BitPacker for causes 2 and 3; the frame `FIDX` and the position `PCNT` are those before the command, and no further word
changes any of them. That the words `0x201` to `0x2FF` count as the command decoder's, not as `EOI`, is the model's reading of
10 R34, log entry 15 (DEDUCED). -/
def Obligations.DiagnosticOfAFault : Prop :=
  ∀ (s t : State) (w : CmdWord) (rest : List HostAction),
    s.input = .issue w :: rest → s.fault = false → step s = .next t → t.fault = true →
    (t.failedStage = some .commandDecoder ↔ t.cause = 1#3) ∧
    (t.failedStage = some .bitPacker ↔ t.cause = 2#3 ∨ t.cause = 3#3) ∧
    t.fidx = s.fidx ∧ t.pcnt = s.pcnt ∧
    ∀ (w' : CmdWord) (rest' : List HostAction), rest = .issue w' :: rest' →
      ∃ u, step t = .next u ∧ u.failedStage = t.failedStage ∧ u.cause = t.cause ∧ u.fidx = t.fidx ∧ u.pcnt = t.pcnt

/-! ## The BitPacker against Pack -/

/-- 40 R104: eight pixels from `NB = 0` emit the byte whose bit 7 is the first pixel's packing bit. -/
def Obligations.EightPixelsMakeAByte : Prop :=
  ∀ (s : State) (v0 v1 v2 v3 v4 v5 v6 v7 : Byte) (rest : List HostAction),
    s.fault = false → s.nb = 0#4 → s.pcnt.toNat + 8 ≤ s.cfgW.toNat * s.cfgH.toNat →
    s.input = issues [.pix v0, .pix v1, .pix v2, .pix v3, .pix v4, .pix v5, .pix v6, .pix v7] ++ rest →
    ∃ t, Host.Core.run core 8 s = .next t ∧ t.input = rest ∧ t.nb = 0#4 ∧
      t.pk = s.pk ++ [.byte (BitVec.ofNat 8 ((packBit v0).toNat * 128 + (packBit v1).toNat * 64 +
        (packBit v2).toNat * 32 + (packBit v3).toNat * 16 + (packBit v4).toNat * 8 + (packBit v5).toNat * 4 +
        (packBit v6).toNat * 2 + (packBit v7).toNat))]

/-- 40 R105: the padded last byte is `ACC * 2^(8-r)`, with its low `8-r` bits zero. -/
def Obligations.PaddingOfTheLastByte : Prop :=
  ∀ s t : State, s.Inv → s.fault = false → s.pcnt.toNat = s.cfgW.toNat * s.cfgH.toNat → s.nb ≠ 0#4 →
    exec .eoi s = .next t →
    ∃ b : Byte, t.pk = s.pk ++ [.byte b, .endMark] ∧ b.toNat = s.acc.toNat * 2 ^ (8 - s.nb.toNat) ∧
      b.toNat % 2 ^ (8 - s.nb.toNat) = 0

/-- 40 R107: an image that ends with a successful `EOI` has put exactly `ceil(W*H/8)` bytes on `PK` since the `END` before:
`W*H div 8` before the `EOI`, and one more from it when `W*H mod 8 ≠ 0`. -/
def Obligations.LengthOfAPackedImage : Prop :=
  ∀ s t : State, s.Inv → s.fault = false → exec .eoi s = .next t → t.fault = false →
    bytesSinceEnd s.pk = s.cfgW.toNat * s.cfgH.toNat / 8 ∧
    ∃ e, t.pk = s.pk ++ e ++ [.endMark] ∧ e.length = (if s.cfgW.toNat * s.cfgH.toNat % 8 = 0 then 0 else 1) ∧
      bytesSinceEnd (s.pk ++ e) = (s.cfgW.toNat * s.cfgH.toNat + 7) / 8

/-- 40 R113: from a flushed state, the pixels of a `W×H` grid in row-major order and `EOI` put `Pack` of the grid on `PK` and
`RleEncode` of that on `OUT`, each followed by `END`; no fault occurs and the block ends flushed with `FIDX` one higher. -/
def Obligations.ImageAgreesWithPack : Prop :=
  ∀ (W H : Nat) (g : Nat → Nat → Int) (vs : List Byte) (s : State) (rest : List HostAction),
    s.Flushed → s.cfgW.toNat = W → s.cfgH.toNat = H → vs.length = W * H →
    (∀ x y, x < W → y < H → (vs.getD (y * W + x) 0#8 ≠ 0#8 ↔ 0 < g x y)) →
    s.input = issues (vs.map Instr.pix ++ [.eoi]) ++ rest →
    ∃ t, Host.Core.run core (W * H + 1) s = .next t ∧ t.input = rest ∧
      t.pk = s.pk ++ (pack W H g).map Event.byte ++ [.endMark] ∧
      t.out = s.out ++ (rleEncode (pack W H g)).map Event.byte ++ [.endMark] ∧
      t.Flushed ∧ t.fidx = s.fidx + 1#32

/-! ## The RLE unit against RleEncode -/

/-- 41 R136: the bytes of any buffer followed by `EOB`, from any state with no run open and no fault, put `RleEncode` of the
buffer on `OUT`, followed by `END`, and nothing on `PK`. -/
def Obligations.BufferAgreesWithRleEncode : Prop :=
  ∀ (B : List Byte) (s : State) (rest : List HostAction), s.rcnt = 0#8 → s.fault = false →
    s.input = issues (B.map Instr.byte ++ [.eob]) ++ rest →
    ∃ t, Host.Core.run core (B.length + 1) s = .next t ∧ t.input = rest ∧
      t.out = s.out ++ (rleEncode B).map Event.byte ++ [.endMark] ∧ t.pk = s.pk ∧ t.rcnt = 0#8 ∧ t.fault = false

/-- 41 R138: two equal buffers sent one after the other give two equal outputs; no run crosses the `EOB` between them. -/
def Obligations.EqualBuffersEqualOutputs : Prop :=
  ∀ (B : List Byte) (s : State), s.rcnt = 0#8 → s.fault = false →
    s.input = issues (B.map Instr.byte ++ [.eob] ++ B.map Instr.byte ++ [.eob]) →
    ∃ (t : State) (e : List Event), Host.Core.run core (2 * B.length + 2) s = .next t ∧ t.out = s.out ++ e ++ e

/-- 41 R132: decoding is the exact inverse of encoding. -/
def Obligations.RleRoundTrip : Prop :=
  ∀ B : List Byte, rleDecode (rleEncode B) = some B

/-- 41 R133: no count above 255 (and none of 0), and a maximal run of length `L` becomes `ceil(L/255)` pairs, each of count 255
except the last, whatever stands around it. -/
def Obligations.RunCap : Prop :=
  (∀ B : List Byte, countsLegal (rleEncode B) = true) ∧
  ∀ (A C : List Byte) (v : Byte) (L : Nat), 1 ≤ L → A.getLast? ≠ some v → C.head? ≠ some v →
    rleEncode (A ++ List.replicate L v ++ C) =
      rleEncode A ++ (List.replicate ((L + 254) / 255 - 1) [255#8, v]).flatten ++
        [BitVec.ofNat 8 (L - 255 * ((L + 254) / 255 - 1)), v] ++ rleEncode C

/-- 41 R131: the output has an even number of bytes, at least `2*ceil(n/255)` and at most `2n`, and is empty only for the empty
buffer. -/
def Obligations.SizeOfAnEncoding : Prop :=
  ∀ B : List Byte,
    (rleEncode B).length % 2 = 0 ∧ 2 * ((B.length + 254) / 255) ≤ (rleEncode B).length ∧
    (rleEncode B).length ≤ 2 * B.length ∧ (rleEncode B = [] ↔ B = [])

/-- 41 R137: two consecutive pairs of an output differ in value or the first has count 255, and the output is the only pair
sequence with legal counts and this property that decodes to the buffer. -/
def Obligations.EncodingIsUnique : Prop :=
  ∀ B : List Byte,
    neighboursMaximal (rleEncode B) = true ∧ countsLegal (rleEncode B) = true ∧ rleDecode (rleEncode B) = some B ∧
    ∀ E : List Byte, rleDecode E = some B → countsLegal E = true → neighboursMaximal E = true → E = rleEncode B

/-! ## The software around the block -/

/-- 43 R160, R161: a record is the length, low byte first, and the payload; above 65535 bytes the writer aborts and
there is none (an answer `none` is the model's form of that, log entry 6). -/
def Obligations.RecordFormat : Prop :=
  ∀ P : List Byte,
    (P.length ≤ 65535 → ∃ lo hi : Byte, record P = some (lo :: hi :: P) ∧ lo.toNat + 256 * hi.toNat = P.length ∧
      lo.toNat = P.length % 256) ∧
    (65535 < P.length → record P = none)

/-- 43 R167, R162: the offset table has one entry per frame, starts at 0, grows by two plus the payload's length, and each entry
is where that frame's record stands in the container. That an offset has no bound, and what the table and the container of no
frame are, is the model's choice, log entries 16 and 17. -/
def Obligations.OffsetsLocateRecords : Prop :=
  ∀ Ps : List (List Byte),
    (offsetTable Ps).length = Ps.length ∧ (Ps ≠ [] → (offsetTable Ps).head? = some 0) ∧
    (∀ i, i + 1 < Ps.length →
      (offsetTable Ps).getD (i + 1) 0 = (offsetTable Ps).getD i 0 + 2 + (Ps.getD i []).length) ∧
    ∀ C, container Ps = some C →
      C.length = totalBytes Ps ∧
      ∀ i, i < Ps.length →
        some ((C.drop ((offsetTable Ps).getD i 0)).take (2 + (Ps.getD i []).length)) = record (Ps.getD i [])

/-- 43 R171: a frame's payload has at most `2*ceil(W*H/8)` bytes, so up to `W*H = 262136` every payload has a record. -/
def Obligations.CapacityBound : Prop :=
  ∀ (W H : Nat) (g : Nat → Nat → Int),
    (rleEncode (pack W H g)).length ≤ 2 * ((W * H + 7) / 8) ∧
    (W * H ≤ 262136 → ∃ r, record (rleEncode (pack W H g)) = some r)

/-- 43 R160 with 40 R113: each image the block completes is one payload on `OUT`, `RleEncode` of its `Pack`, after the payloads
before it, so the container grows by that payload's record at its end (43 R162), and there is none if there was none or the
payload has no record (43 R161). Two points are the model's choice: before the first image after reset, when no payload precedes,
the container is the empty buffer (log entry 17), and a container or record there is none of is an answer `none`, the form given
to the writer's abort (log entry 6). -/
def Obligations.ImageBecomesARecord : Prop :=
  ∀ (W H : Nat) (g : Nat → Nat → Int) (vs : List Byte) (s : State) (rest : List HostAction),
    s.Inv → s.Flushed → s.cfgW.toNat = W → s.cfgH.toNat = H → vs.length = W * H →
    (∀ x y, x < W → y < H → (vs.getD (y * W + x) 0#8 ≠ 0#8 ↔ 0 < g x y)) →
    s.input = issues (vs.map Instr.pix ++ [.eoi]) ++ rest →
    ∃ t, Host.Core.run core (W * H + 1) s = .next t ∧ t.payloads = s.payloads ++ [rleEncode (pack W H g)] ∧
      container t.payloads =
        (container s.payloads).bind fun C => (record (rleEncode (pack W H g))).map (C ++ ·)

/-- 20 R59, 41 R131 and 43 R161 of what stands on `OUT`: every payload is whole pairs with counts that are not 0, so none has
exactly 65535 bytes, and one that has a record has at most 65534. -/
def Obligations.PayloadsAreWholePairs : Prop :=
  ∀ s : State, s.Inv → ∀ P ∈ s.payloads,
    P.length % 2 = 0 ∧ countsLegal P = true ∧ P.length ≠ 65535 ∧ (∀ r, record P = some r → P.length ≤ 65534)
end

