-- ==== Sys2Proof/Laws/State.lean ====
section
/-! SUPPORT. One lemma per field per update of `State`, each true by `rfl`, so that no later proof unfolds a record update. -/

namespace Sys2Proof.Machine

/-! Emitting on `PK`. -/

@[simp] theorem State.emit_pk_acc (e : Event) (s : State) : (s.emit .pk e).acc = s.acc := rfl
@[simp] theorem State.emit_pk_nb (e : Event) (s : State) : (s.emit .pk e).nb = s.nb := rfl
@[simp] theorem State.emit_pk_pcnt (e : Event) (s : State) : (s.emit .pk e).pcnt = s.pcnt := rfl
@[simp] theorem State.emit_pk_rval (e : Event) (s : State) : (s.emit .pk e).rval = s.rval := rfl
@[simp] theorem State.emit_pk_rcnt (e : Event) (s : State) : (s.emit .pk e).rcnt = s.rcnt := rfl
@[simp] theorem State.emit_pk_fidx (e : Event) (s : State) : (s.emit .pk e).fidx = s.fidx := rfl
@[simp] theorem State.emit_pk_fault (e : Event) (s : State) : (s.emit .pk e).fault = s.fault := rfl
@[simp] theorem State.emit_pk_cause (e : Event) (s : State) : (s.emit .pk e).cause = s.cause := rfl
@[simp] theorem State.emit_pk_finfo (e : Event) (s : State) : (s.emit .pk e).finfo = s.finfo := rfl
@[simp] theorem State.emit_pk_cfgW (e : Event) (s : State) : (s.emit .pk e).cfgW = s.cfgW := rfl
@[simp] theorem State.emit_pk_cfgH (e : Event) (s : State) : (s.emit .pk e).cfgH = s.cfgH := rfl
@[simp] theorem State.emit_pk_cfgIn (e : Event) (s : State) : (s.emit .pk e).cfgIn = s.cfgIn := rfl
@[simp] theorem State.emit_pk_input (e : Event) (s : State) : (s.emit .pk e).input = s.input := rfl
@[simp] theorem State.emit_pk_pk (e : Event) (s : State) : (s.emit .pk e).pk = s.pk ++ [e] := rfl
@[simp] theorem State.emit_pk_out (e : Event) (s : State) : (s.emit .pk e).out = s.out := rfl
@[simp] theorem State.emit_pk_earlier (e : Event) (s : State) : (s.emit .pk e).earlier = s.earlier := rfl

/-! Emitting on `OUT`. -/

@[simp] theorem State.emit_out_acc (e : Event) (s : State) : (s.emit .out e).acc = s.acc := rfl
@[simp] theorem State.emit_out_nb (e : Event) (s : State) : (s.emit .out e).nb = s.nb := rfl
@[simp] theorem State.emit_out_pcnt (e : Event) (s : State) : (s.emit .out e).pcnt = s.pcnt := rfl
@[simp] theorem State.emit_out_rval (e : Event) (s : State) : (s.emit .out e).rval = s.rval := rfl
@[simp] theorem State.emit_out_rcnt (e : Event) (s : State) : (s.emit .out e).rcnt = s.rcnt := rfl
@[simp] theorem State.emit_out_fidx (e : Event) (s : State) : (s.emit .out e).fidx = s.fidx := rfl
@[simp] theorem State.emit_out_fault (e : Event) (s : State) : (s.emit .out e).fault = s.fault := rfl
@[simp] theorem State.emit_out_cause (e : Event) (s : State) : (s.emit .out e).cause = s.cause := rfl
@[simp] theorem State.emit_out_finfo (e : Event) (s : State) : (s.emit .out e).finfo = s.finfo := rfl
@[simp] theorem State.emit_out_cfgW (e : Event) (s : State) : (s.emit .out e).cfgW = s.cfgW := rfl
@[simp] theorem State.emit_out_cfgH (e : Event) (s : State) : (s.emit .out e).cfgH = s.cfgH := rfl
@[simp] theorem State.emit_out_cfgIn (e : Event) (s : State) : (s.emit .out e).cfgIn = s.cfgIn := rfl
@[simp] theorem State.emit_out_input (e : Event) (s : State) : (s.emit .out e).input = s.input := rfl
@[simp] theorem State.emit_out_pk (e : Event) (s : State) : (s.emit .out e).pk = s.pk := rfl
@[simp] theorem State.emit_out_out (e : Event) (s : State) : (s.emit .out e).out = s.out ++ [e] := rfl
@[simp] theorem State.emit_out_earlier (e : Event) (s : State) : (s.emit .out e).earlier = s.earlier := rfl

/-! Emitting the open run. -/

@[simp] theorem State.emitRun_acc (s : State) : (s.emitRun).acc = s.acc := rfl
@[simp] theorem State.emitRun_nb (s : State) : (s.emitRun).nb = s.nb := rfl
@[simp] theorem State.emitRun_pcnt (s : State) : (s.emitRun).pcnt = s.pcnt := rfl
@[simp] theorem State.emitRun_rval (s : State) : (s.emitRun).rval = s.rval := rfl
@[simp] theorem State.emitRun_rcnt (s : State) : (s.emitRun).rcnt = s.rcnt := rfl
@[simp] theorem State.emitRun_fidx (s : State) : (s.emitRun).fidx = s.fidx := rfl
@[simp] theorem State.emitRun_fault (s : State) : (s.emitRun).fault = s.fault := rfl
@[simp] theorem State.emitRun_cause (s : State) : (s.emitRun).cause = s.cause := rfl
@[simp] theorem State.emitRun_finfo (s : State) : (s.emitRun).finfo = s.finfo := rfl
@[simp] theorem State.emitRun_cfgW (s : State) : (s.emitRun).cfgW = s.cfgW := rfl
@[simp] theorem State.emitRun_cfgH (s : State) : (s.emitRun).cfgH = s.cfgH := rfl
@[simp] theorem State.emitRun_cfgIn (s : State) : (s.emitRun).cfgIn = s.cfgIn := rfl
@[simp] theorem State.emitRun_input (s : State) : (s.emitRun).input = s.input := rfl
@[simp] theorem State.emitRun_pk (s : State) : (s.emitRun).pk = s.pk := rfl
@[simp] theorem State.emitRun_out (s : State) : (s.emitRun).out = s.out ++ [Event.byte s.rcnt] ++ [Event.byte s.rval] := rfl
@[simp] theorem State.emitRun_earlier (s : State) : (s.emitRun).earlier = s.earlier := rfl

/-! Opening a run. -/

@[simp] theorem State.openRun_acc (b : Byte) (s : State) : (s.openRun b).acc = s.acc := rfl
@[simp] theorem State.openRun_nb (b : Byte) (s : State) : (s.openRun b).nb = s.nb := rfl
@[simp] theorem State.openRun_pcnt (b : Byte) (s : State) : (s.openRun b).pcnt = s.pcnt := rfl
@[simp] theorem State.openRun_rval (b : Byte) (s : State) : (s.openRun b).rval = b := rfl
@[simp] theorem State.openRun_rcnt (b : Byte) (s : State) : (s.openRun b).rcnt = 1#8 := rfl
@[simp] theorem State.openRun_fidx (b : Byte) (s : State) : (s.openRun b).fidx = s.fidx := rfl
@[simp] theorem State.openRun_fault (b : Byte) (s : State) : (s.openRun b).fault = s.fault := rfl
@[simp] theorem State.openRun_cause (b : Byte) (s : State) : (s.openRun b).cause = s.cause := rfl
@[simp] theorem State.openRun_finfo (b : Byte) (s : State) : (s.openRun b).finfo = s.finfo := rfl
@[simp] theorem State.openRun_cfgW (b : Byte) (s : State) : (s.openRun b).cfgW = s.cfgW := rfl
@[simp] theorem State.openRun_cfgH (b : Byte) (s : State) : (s.openRun b).cfgH = s.cfgH := rfl
@[simp] theorem State.openRun_cfgIn (b : Byte) (s : State) : (s.openRun b).cfgIn = s.cfgIn := rfl
@[simp] theorem State.openRun_input (b : Byte) (s : State) : (s.openRun b).input = s.input := rfl
@[simp] theorem State.openRun_pk (b : Byte) (s : State) : (s.openRun b).pk = s.pk := rfl
@[simp] theorem State.openRun_out (b : Byte) (s : State) : (s.openRun b).out = s.out := rfl
@[simp] theorem State.openRun_earlier (b : Byte) (s : State) : (s.openRun b).earlier = s.earlier := rfl

/-! The fault latch. -/

@[simp] theorem State.raiseFault_acc (c : Cause) (w : CmdWord) (s : State) : (s.raiseFault c w).acc = s.acc := rfl
@[simp] theorem State.raiseFault_nb (c : Cause) (w : CmdWord) (s : State) : (s.raiseFault c w).nb = s.nb := rfl
@[simp] theorem State.raiseFault_pcnt (c : Cause) (w : CmdWord) (s : State) : (s.raiseFault c w).pcnt = s.pcnt := rfl
@[simp] theorem State.raiseFault_rval (c : Cause) (w : CmdWord) (s : State) : (s.raiseFault c w).rval = s.rval := rfl
@[simp] theorem State.raiseFault_rcnt (c : Cause) (w : CmdWord) (s : State) : (s.raiseFault c w).rcnt = s.rcnt := rfl
@[simp] theorem State.raiseFault_fidx (c : Cause) (w : CmdWord) (s : State) : (s.raiseFault c w).fidx = s.fidx := rfl
@[simp] theorem State.raiseFault_fault (c : Cause) (w : CmdWord) (s : State) : (s.raiseFault c w).fault = true := rfl
@[simp] theorem State.raiseFault_cause (c : Cause) (w : CmdWord) (s : State) : (s.raiseFault c w).cause = c.code := rfl
@[simp] theorem State.raiseFault_finfo (c : Cause) (w : CmdWord) (s : State) : (s.raiseFault c w).finfo = w := rfl
@[simp] theorem State.raiseFault_cfgW (c : Cause) (w : CmdWord) (s : State) : (s.raiseFault c w).cfgW = s.cfgW := rfl
@[simp] theorem State.raiseFault_cfgH (c : Cause) (w : CmdWord) (s : State) : (s.raiseFault c w).cfgH = s.cfgH := rfl
@[simp] theorem State.raiseFault_cfgIn (c : Cause) (w : CmdWord) (s : State) : (s.raiseFault c w).cfgIn = s.cfgIn := rfl
@[simp] theorem State.raiseFault_input (c : Cause) (w : CmdWord) (s : State) : (s.raiseFault c w).input = s.input := rfl
@[simp] theorem State.raiseFault_pk (c : Cause) (w : CmdWord) (s : State) : (s.raiseFault c w).pk = s.pk := rfl
@[simp] theorem State.raiseFault_out (c : Cause) (w : CmdWord) (s : State) : (s.raiseFault c w).out = s.out := rfl
@[simp] theorem State.raiseFault_earlier (c : Cause) (w : CmdWord) (s : State) : (s.raiseFault c w).earlier = s.earlier := rfl

/-! Shifting in a pixel. -/

@[simp] theorem State.shiftPixel_acc (v : Byte) (s : State) : (s.shiftPixel v).acc = shiftIn s.acc (packBit v) := rfl
@[simp] theorem State.shiftPixel_nb (v : Byte) (s : State) : (s.shiftPixel v).nb = s.nb + 1#4 := rfl
@[simp] theorem State.shiftPixel_pcnt (v : Byte) (s : State) : (s.shiftPixel v).pcnt = s.pcnt + 1#32 := rfl
@[simp] theorem State.shiftPixel_rval (v : Byte) (s : State) : (s.shiftPixel v).rval = s.rval := rfl
@[simp] theorem State.shiftPixel_rcnt (v : Byte) (s : State) : (s.shiftPixel v).rcnt = s.rcnt := rfl
@[simp] theorem State.shiftPixel_fidx (v : Byte) (s : State) : (s.shiftPixel v).fidx = s.fidx := rfl
@[simp] theorem State.shiftPixel_fault (v : Byte) (s : State) : (s.shiftPixel v).fault = s.fault := rfl
@[simp] theorem State.shiftPixel_cause (v : Byte) (s : State) : (s.shiftPixel v).cause = s.cause := rfl
@[simp] theorem State.shiftPixel_finfo (v : Byte) (s : State) : (s.shiftPixel v).finfo = s.finfo := rfl
@[simp] theorem State.shiftPixel_cfgW (v : Byte) (s : State) : (s.shiftPixel v).cfgW = s.cfgW := rfl
@[simp] theorem State.shiftPixel_cfgH (v : Byte) (s : State) : (s.shiftPixel v).cfgH = s.cfgH := rfl
@[simp] theorem State.shiftPixel_cfgIn (v : Byte) (s : State) : (s.shiftPixel v).cfgIn = s.cfgIn := rfl
@[simp] theorem State.shiftPixel_input (v : Byte) (s : State) : (s.shiftPixel v).input = s.input := rfl
@[simp] theorem State.shiftPixel_pk (v : Byte) (s : State) : (s.shiftPixel v).pk = s.pk := rfl
@[simp] theorem State.shiftPixel_out (v : Byte) (s : State) : (s.shiftPixel v).out = s.out := rfl
@[simp] theorem State.shiftPixel_earlier (v : Byte) (s : State) : (s.shiftPixel v).earlier = s.earlier := rfl

/-! Reset. -/

@[simp] theorem State.hostReset_acc (s : State) : (s.hostReset).acc = 0#8 := rfl
@[simp] theorem State.hostReset_nb (s : State) : (s.hostReset).nb = 0#4 := rfl
@[simp] theorem State.hostReset_pcnt (s : State) : (s.hostReset).pcnt = 0#32 := rfl
@[simp] theorem State.hostReset_rval (s : State) : (s.hostReset).rval = 0#8 := rfl
@[simp] theorem State.hostReset_rcnt (s : State) : (s.hostReset).rcnt = 0#8 := rfl
@[simp] theorem State.hostReset_fidx (s : State) : (s.hostReset).fidx = 0#32 := rfl
@[simp] theorem State.hostReset_fault (s : State) : (s.hostReset).fault = false := rfl
@[simp] theorem State.hostReset_cause (s : State) : (s.hostReset).cause = 0#3 := rfl
@[simp] theorem State.hostReset_finfo (s : State) : (s.hostReset).finfo = 0#12 := rfl
@[simp] theorem State.hostReset_cfgW (s : State) : (s.hostReset).cfgW = s.cfgIn.W := rfl
@[simp] theorem State.hostReset_cfgH (s : State) : (s.hostReset).cfgH = s.cfgIn.H := rfl
@[simp] theorem State.hostReset_cfgIn (s : State) : (s.hostReset).cfgIn = s.cfgIn := rfl
@[simp] theorem State.hostReset_input (s : State) : (s.hostReset).input = s.input := rfl
@[simp] theorem State.hostReset_pk (s : State) : (s.hostReset).pk = [] := rfl
@[simp] theorem State.hostReset_out (s : State) : (s.hostReset).out = [] := rfl
@[simp] theorem State.hostReset_earlier (s : State) : (s.hostReset).earlier = s.earlier ++ [Outputs.mk s.pk s.out] := rfl

/-! Offering a word. -/

@[simp] theorem State.offer_acc (w : CmdWord) (s : State) : (s.offer w).acc = s.acc := rfl
@[simp] theorem State.offer_nb (w : CmdWord) (s : State) : (s.offer w).nb = s.nb := rfl
@[simp] theorem State.offer_pcnt (w : CmdWord) (s : State) : (s.offer w).pcnt = s.pcnt := rfl
@[simp] theorem State.offer_rval (w : CmdWord) (s : State) : (s.offer w).rval = s.rval := rfl
@[simp] theorem State.offer_rcnt (w : CmdWord) (s : State) : (s.offer w).rcnt = s.rcnt := rfl
@[simp] theorem State.offer_fidx (w : CmdWord) (s : State) : (s.offer w).fidx = s.fidx := rfl
@[simp] theorem State.offer_fault (w : CmdWord) (s : State) : (s.offer w).fault = s.fault := rfl
@[simp] theorem State.offer_cause (w : CmdWord) (s : State) : (s.offer w).cause = s.cause := rfl
@[simp] theorem State.offer_finfo (w : CmdWord) (s : State) : (s.offer w).finfo = s.finfo := rfl
@[simp] theorem State.offer_cfgW (w : CmdWord) (s : State) : (s.offer w).cfgW = s.cfgW := rfl
@[simp] theorem State.offer_cfgH (w : CmdWord) (s : State) : (s.offer w).cfgH = s.cfgH := rfl
@[simp] theorem State.offer_cfgIn (w : CmdWord) (s : State) : (s.offer w).cfgIn = s.cfgIn := rfl
@[simp] theorem State.offer_input (w : CmdWord) (s : State) : (s.offer w).input = HostAction.issue w :: s.input := rfl
@[simp] theorem State.offer_pk (w : CmdWord) (s : State) : (s.offer w).pk = s.pk := rfl
@[simp] theorem State.offer_out (w : CmdWord) (s : State) : (s.offer w).out = s.out := rfl
@[simp] theorem State.offer_earlier (w : CmdWord) (s : State) : (s.offer w).earlier = s.earlier := rfl

end Sys2Proof.Machine
end

