-- ==== Sys2Proof/Laws/Ops.lean ====
section
/-! SUPPORT. For each shared operation one lemma that says once everything it can do, as one record update of the state it is
applied to. The frame of an operation is read off its lemma. -/

namespace Sys2Proof.Machine

/-- The events `RleByte(b)` puts on `OUT`: the pair of the run it closes, or none (41 R120). -/
def State.closedPair (b : Byte) (s : State) : List Event :=
  if s.rcnt = 0#8 ∨ (b = s.rval ∧ s.rcnt < 255#8) then [] else [.byte s.rcnt, .byte s.rval]

/-- The length of the open run after `RleByte(b)` (41 R120). -/
def State.runAfter (b : Byte) (s : State) : Byte :=
  if s.rcnt ≠ 0#8 ∧ b = s.rval ∧ s.rcnt < 255#8 then s.rcnt + 1#8 else 1#8

/-- The events `RleFlush()` puts on `OUT` (41 R121). -/
def State.heldPair (s : State) : List Event :=
  if s.rcnt = 0#8 then [] else [.byte s.rcnt, .byte s.rval]

/-- Everything `RleByte` does. -/
theorem State.rleByte_eq (b : Byte) (s : State) :
    s.rleByte b = { s with rval := b, rcnt := s.runAfter b, out := s.out ++ s.closedPair b } := by
  unfold State.rleByte State.runAfter State.closedPair
  by_cases h0 : s.rcnt = 0#8
  · simp [h0, State.openRun]
  · by_cases h1 : b = s.rval ∧ s.rcnt < 255#8
    · obtain ⟨rfl, h1⟩ := h1
      simp [h0, h1]
    · simp [h0, h1, State.openRun, State.emitRun, State.emit]

/-- Everything `RleFlush` does. -/
theorem State.rleFlush_eq (s : State) :
    s.rleFlush = { s with rcnt := 0#8, out := s.out ++ s.heldPair } := by
  unfold State.rleFlush State.heldPair
  by_cases h0 : s.rcnt = 0#8
  · rw [if_neg (not_not.mpr h0), if_pos h0, List.append_nil, ← h0]
  · simp [h0, State.emitRun, State.emit]

/-- Everything the hand-over of a packed byte does (40 R102, R103). -/
theorem State.handOver_eq (b : Byte) (s : State) :
    s.handOver b =
      { s with
        acc := 0#8, nb := 0#4, rval := b, rcnt := s.runAfter b, pk := s.pk ++ [.byte b], out := s.out ++ s.closedPair b } := by
  simp [State.handOver, State.rleByte_eq, State.runAfter, State.closedPair, State.emit]

/-- Everything the end of a buffer does (40 R103, 41 R123). -/
theorem State.closeBuffer_eq (s : State) :
    s.closeBuffer =
      { s with rcnt := 0#8, fidx := s.fidx + 1#32, out := s.out ++ s.heldPair ++ [.endMark] } := by
  simp [State.closeBuffer, State.rleFlush_eq, State.emit]

/-- Everything `PIX` does past its check (40 R102). -/
theorem State.takePixel_eq (v : Byte) (s : State) :
    s.takePixel v =
      if s.nb + 1#4 = 8#4 then (s.shiftPixel v).handOver (shiftIn s.acc (packBit v)) else s.shiftPixel v := rfl

/-- Everything `EOI` does past its check (40 R103). -/
theorem State.endImage_eq (s : State) :
    s.endImage =
      { s.flushPartial with
        pcnt := 0#32
        rcnt := 0#8
        fidx := s.flushPartial.fidx + 1#32
        pk := s.flushPartial.pk ++ [.endMark]
        out := s.flushPartial.out ++ s.flushPartial.heldPair ++ [.endMark] } := by
  simp [State.endImage, State.closeBuffer_eq, State.heldPair, State.emit]

/-- After `RleByte` a run is open (41 R120). -/
theorem State.runAfter_ne_zero (b : Byte) (s : State) : s.runAfter b ≠ 0#8 := by
  unfold State.runAfter
  split
  · rename_i h
    have h3 : s.rcnt.toNat < 255 := by simpa [BitVec.lt_def] using h.2.2
    intro hc
    have := congrArg BitVec.toNat hc
    simp only [BitVec.toNat_add, BitVec.toNat_ofNat] at this
    omega
  · decide

/-- A command of a faulted block is discarded (60 R189). -/
theorem State.unlessFaulted_of_fault {s : State} (h : s.fault = true) (f : State → State) : s.unlessFaulted f = s := by
  simp [State.unlessFaulted, h]

/-- A command of a block that has not faulted has its effect. -/
theorem State.unlessFaulted_of_ok {s : State} (h : s.fault = false) (f : State → State) : s.unlessFaulted f = f s := by
  simp [State.unlessFaulted, h]

/-- The image is full when `PCNT` is the area (40 R110). -/
theorem State.imageFull_iff (s : State) : s.imageFull = true ↔ s.pcnt.toNat = s.area := by
  simp [State.imageFull]

end Sys2Proof.Machine
end

