-- ==== Sys2Proof/Laws/PerInstr.lean ====
section
/-! SUPPORT. Statements about every command as syntax, one lemma per constructor. -/

namespace Sys2Proof.Laws.Encoding

/-- The fields of a command's word are its opcode and operand (30 R71, R72), and the command is well formed. -/
def Statement (i : Instr) : Prop :=
  (encode i).op = i.opcode ∧ (encode i).arg = i.operand ∧ i.wellFormed = true

theorem nop : Statement .nop := by unfold Statement; decide

theorem pix (v : Byte) : Statement (.pix v) := by
  revert v; unfold Statement; decide +kernel

theorem eoi : Statement .eoi := by unfold Statement; decide

theorem byte (b : Byte) : Statement (.byte b) := by
  revert b; unfold Statement; decide +kernel

theorem eob : Statement .eob := by unfold Statement; decide

end Sys2Proof.Laws.Encoding
end

