-- ==== Sys2Proof/Laws/Step.lean ====
section
/-! SUPPORT. What a command can do and what a step can do, said once: every later proof about `exec` or `step` splits one of
these lemmas instead of unfolding the definitions. -/

namespace Sys2Proof.Machine

/-- A faulted block discards every command (60 R189). -/
theorem exec_of_fault {s : State} (h : s.fault = true) (i : Instr) : exec i s = .next s := by
  cases i <;> simp [exec, execNop, execPix, execEoi, execByte, execEob, State.unlessFaulted_of_fault h]

/-- A faulted block discards every word (60 R189). -/
theorem runWord_of_fault {s : State} (h : s.fault = true) (w : CmdWord) : runWord w s = .next s := by
  unfold runWord
  split
  · exact exec_of_fault h _
  · simp [execIllegal, State.unlessFaulted_of_fault h]

/-- The effect of a command on a block that has not faulted. -/
def effect (i : Instr) (s : State) : State :=
  match i with
  | .nop => s
  | .pix v => if s.imageFull then s.raiseFault .dimOverrun (encode (.pix v)) else s.takePixel v
  | .eoi => if s.imageFull then s.endImage else s.raiseFault .dimUnderrun (encode .eoi)
  | .byte b => s.rleByte b
  | .eob => s.closeBuffer

/-- `exec` on a block that has not faulted. -/
theorem exec_of_ok {s : State} (h : s.fault = false) (i : Instr) : exec i s = .next (effect i s) := by
  cases i <;> simp [exec, execNop, execPix, execEoi, execByte, execEob, effect, State.unlessFaulted_of_ok h]

/-- Everything `exec` can do: the block has faulted and nothing happens, or the command has its effect. -/
theorem exec_cases {i : Instr} {s t : State} (h : exec i s = .next t) :
    (s.fault = true ∧ t = s) ∨ (s.fault = false ∧ t = effect i s) := by
  cases hf : s.fault with
  | true => rw [exec_of_fault hf] at h; cases h; exact .inl ⟨rfl, rfl⟩
  | false => rw [exec_of_ok hf] at h; cases h; exact .inr ⟨rfl, rfl⟩

/-- Everything a word can do to a block that has not faulted. -/
theorem runWord_of_ok {s : State} (h : s.fault = false) (w : CmdWord) :
    (∃ i, decode w = .command i ∧ runWord w s = .next (effect i s)) ∨
    (∃ why, decode w = .illegal why ∧ runWord w s = .next (s.raiseFault .illegalCmd w)) := by
  unfold runWord
  cases hd : decode w with
  | command i => exact .inl ⟨i, rfl, exec_of_ok h i⟩
  | illegal why => exact .inr ⟨why, rfl, by simp [execIllegal, State.unlessFaulted_of_ok h]⟩

/-- A step on an offered word is that word on the state with the word consumed. -/
theorem step_issue {s : State} {w : CmdWord} {rest : List HostAction} (h : s.input = .issue w :: rest) :
    step s = runWord w { s with input := rest } := by
  simp [step, acceptNext, h, meet]

/-- A step on new configuration inputs. -/
theorem step_configure {s : State} {cfg : Cfg} {rest : List HostAction} (h : s.input = .configure cfg :: rest) :
    step s = .next { s with input := rest, cfgIn := cfg } := by
  simp [step, acceptNext, h, meet]

/-- A step on a reset. -/
theorem step_reset {s : State} {rest : List HostAction} (h : s.input = .reset :: rest) :
    step s = .next (State.hostReset { s with input := rest }) := by
  simp [step, acceptNext, h, meet]

/-- A step with nothing offered. -/
theorem step_wait {s : State} (h : s.input = []) : step s = .next s := by
  simp [step, acceptNext, h]

/-- Unfolding one step of a run of any machine. -/
theorem run_succ (M : Host.Core) (k : Nat) (s t : M.State) (h : M.step s = .next t) : M.run (k + 1) s = M.run k t := by
  simp [Host.Core.run, h]

end Sys2Proof.Machine
end

