-- ==== Sys2Proof/Laws/Streams.lean ====
section
/-! SUPPORT. The small lemmas of the streams and of the host's actions: what the next event or action does to each count. -/

namespace Sys2Proof.Machine

@[simp] theorem payloadsFrom_nil (held : List Byte) : payloadsFrom held [] = [] := rfl
@[simp] theorem payloadsFrom_byte (held : List Byte) (b : Byte) (es : List Event) :
    payloadsFrom held (.byte b :: es) = payloadsFrom (held ++ [b]) es := rfl
@[simp] theorem payloadsFrom_endMark (held : List Byte) (es : List Event) :
    payloadsFrom held (.endMark :: es) = held :: payloadsFrom [] es := rfl

@[simp] theorem bytesSinceEndFrom_nil (n : Nat) : bytesSinceEndFrom n [] = n := rfl
@[simp] theorem bytesSinceEndFrom_byte (n : Nat) (b : Byte) (es : List Event) :
    bytesSinceEndFrom n (.byte b :: es) = bytesSinceEndFrom (n + 1) es := rfl
@[simp] theorem bytesSinceEndFrom_endMark (n : Nat) (es : List Event) :
    bytesSinceEndFrom n (.endMark :: es) = bytesSinceEndFrom 0 es := rfl

@[simp] theorem commandsLeft_nil : commandsLeft [] = [] := rfl
@[simp] theorem commandsLeft_issue (w : CmdWord) (as : List HostAction) :
    commandsLeft (.issue w :: as) = w :: commandsLeft as := rfl
@[simp] theorem commandsLeft_configure (cfg : Cfg) (as : List HostAction) :
    commandsLeft (.configure cfg :: as) = commandsLeft as := rfl
@[simp] theorem commandsLeft_reset (as : List HostAction) : commandsLeft (.reset :: as) = [] := rfl

/-- The bytes of a buffer are held until its `END`. -/
theorem payloadsFrom_bytes (held P : List Byte) (es : List Event) :
    payloadsFrom held (P.map .byte ++ es) = payloadsFrom (held ++ P) es := by
  induction P generalizing held with
  | nil => simp
  | cons b P ih => simp [ih]

/-- A buffer on a stream that ends with an `END`, or is empty, is one payload more (43 R160). -/
theorem payloadsFrom_append_buffer (held P : List Byte) (es : List Event) (closed : bytesSinceEndFrom held.length es = 0) :
    payloadsFrom held (es ++ P.map .byte ++ [.endMark]) = payloadsFrom held es ++ [P] := by
  induction es generalizing held with
  | nil =>
    obtain rfl : held = [] := List.length_eq_zero_iff.mp closed
    simp [payloadsFrom_bytes]
  | cons e es ih =>
    cases e with
    | byte b => exact ih (held ++ [b]) (by simpa using closed)
    | endMark => simpa using ih [] closed

/-- The container of one payload more is the container with that payload's record at its end (43 R162). -/
theorem container_append (Ps : List (List Byte)) (P : List Byte) :
    container (Ps ++ [P]) = (container Ps).bind fun C => (record P).map (C ++ ·) := by
  induction Ps with
  | nil => cases h : record P <;> simp [container, h]
  | cons Q Qs ih =>
    cases hQ : record Q <;> cases hQs : container Qs <;> cases hP : record P <;> simp [container, hQ, hQs, hP, ih]

end Sys2Proof.Machine
end

