-- ==== Sys2Proof/Tests/Slice0.lean ====
section
/-! SUPPORT. Tests. Expected values come from spec/95_test_vectors.md and the rules' own examples, never from the model. The
second half shows, for each statement with hypotheses, a state and operands that meet them. -/

namespace Sys2Proof.Tests

open Sys2Proof.Machine

/-- The next state of an outcome. -/
def after : Host.Outcome State Fault Refusal → Option State
  | .next s => some s
  | .fault _ => none
  | .refused _ => none

/-- Reset with configuration `W`, `H`. -/
def at_ (W H : Dim) : State := State.resetWith { W := W, H := H }

/-- A state as 95_test_vectors.md writes it: `ACC NB PCNT RVAL RCNT FIDX STATUS FINFO`. -/
structure Shown where
  acc : Byte
  nb : Nat
  pcnt : Nat
  rval : Byte
  rcnt : Nat
  fidx : Nat
  status : Byte
  finfo : CmdWord
  deriving DecidableEq

def shown (s : State) : Shown :=
  { acc := s.acc, nb := s.nb.toNat, pcnt := s.pcnt.toNat, rval := s.rval, rcnt := s.rcnt.toNat, fidx := s.fidx.toNat,
    status := s.status, finfo := s.finfo }

/-- The state a command leaves, as 95_test_vectors.md writes it. -/
def shownAfter (i : Instr) (s : State) := (after (exec i s)).map shown

/-- What a command leaves on `PK` and `OUT`. -/
def emitted (i : Instr) (s : State) := (after (exec i s)).map fun t => (t.pk, t.out)

/-! Well-formedness: each check refuses an ill-formed term. -/

/-- 30 R82 -/
theorem test_legal_refuses_nonzero_arg : CmdWord.legal 0x001#12 = false := by decide
/-- 30 R81 -/
theorem test_legal_refuses_reserved_opcode : CmdWord.legal 0x5AB#12 = false := by decide
/-- 30 R80 -/
theorem test_legal_takes_pix : CmdWord.legal 0x1FF#12 = true := by decide
/-- 30 R72 -/
theorem test_instr_well_formed : (Instr.byte 255#8).wellFormed = true := by decide
/-- 30 R85 -/
theorem test_stmt_refuses_pix_256 : (Stmt.pix 256).wellFormed = false := by decide
/-- 30 R85 -/
theorem test_stmt_refuses_byte_256 : (Stmt.byte 256).wellFormed = false := by decide
/-- 30 R87 -/
theorem test_stmt_refuses_word_4096 : (Stmt.word 0x1000).wellFormed = false := by decide
/-- 30 R88 -/
theorem test_stmt_refuses_nested_rep : (Stmt.rep 2 (.rep 2 .nop)).wellFormed = false := by decide
/-- 30 R85, R88 -/
theorem test_stmt_refuses_rep_of_bad_operand : (Stmt.rep 2 (.pix 256)).wellFormed = false := by decide
/-- 30 R85 -/
theorem test_stmt_takes_255 : (Stmt.rep 0 (.pix 255)).wellFormed = true := by decide

/-! Decoding: words written bit by bit from the encoding column of the opcode table. -/

theorem test_decode_nop : decode 0b000000000000#12 = .command .nop := by decide
theorem test_decode_pix : decode 0b000101111111#12 = .command (.pix 0x7F#8) := by decide
theorem test_decode_eoi : decode 0b001000000000#12 = .command .eoi := by decide
theorem test_decode_byte : decode 0b001110100101#12 = .command (.byte 0xA5#8) := by decide
theorem test_decode_eob : decode 0b010000000000#12 = .command .eob := by decide
theorem test_decode_table_word : decodeTableWord 16 0x3A5 = some (.byte 0xA5#8) := by decide
theorem test_decode_table_word_illegal : decodeTableWord 16 0x201 = none := by decide
theorem test_decode_table_word_no_word : decodeTableWord 16 0x1100 = none := by decide

/-- 30 R82, R83: 515 of the 4096 words are legal. -/
theorem test_count_of_legal_words :
    ((List.range 4096).filter fun n => (decode (BitVec.ofNat 12 n)).command?.isSome).length = 515 := by
  decide +kernel

/-! One command each, at the case most likely to show a slip. -/

/-- 42 R150 -/
theorem test_nop : after (exec .nop { at_ 3 3 with acc := 5, nb := 3, pcnt := 3 }) =
    some { at_ 3 3 with acc := 5, nb := 3, pcnt := 3 } := by decide
/-- 95 section 2, table, step 3 -/
theorem test_pix_third : shownAfter (.pix 0) { at_ 3 3 with acc := 2, nb := 2, pcnt := 2 } =
    some ⟨0x05, 3, 3, 0x00, 0, 0, 0x60, 0x000⟩ := by decide
/-- 95 section 2, table, step 8: the eighth pixel -/
theorem test_pix_eighth : shownAfter (.pix 0) { at_ 3 3 with acc := 0x55, nb := 7, pcnt := 7 } =
    some ⟨0x00, 0, 8, 0xAB, 1, 0, 0x50, 0x000⟩ := by decide
/-- 95 section 2, table, step 10: `EOI` with a partial byte -/
theorem test_eoi_partial : shownAfter .eoi { at_ 3 3 with acc := 1, nb := 1, pcnt := 9, rval := 0xAB, rcnt := 1 } =
    some ⟨0x00, 0, 0, 0x80, 0, 1, 0x00, 0x000⟩ := by decide
/-- 95 section 2, table, step 10: the events -/
theorem test_eoi_events : emitted .eoi { at_ 3 3 with acc := 1, nb := 1, pcnt := 9, rval := 0xAB, rcnt := 1 } =
    some ([.byte 0x80, .endMark], [.byte 0x01, .byte 0xAB, .byte 0x01, .byte 0x80, .endMark]) := by decide
/-- 95 V-BP13: the padded byte extends the open run -/
theorem test_eoi_extends_run : emitted .eoi { at_ 9 1 with acc := 1, nb := 1, pcnt := 9, rval := 0x80, rcnt := 1 } =
    some ([.byte 0x80, .endMark], [.byte 0x02, .byte 0x80, .endMark]) := by decide
/-- 95 cap states for S2 -/
theorem test_byte_at_cap : emitted (.byte 0x7F) { at_ 0 0 with rval := 0x7F, rcnt := 255 } =
    some ([], [.byte 0xFF, .byte 0x7F]) := by decide
/-- 95 table of V-RLE3, step 4 -/
theorem test_byte_mismatch : shownAfter (.byte 0xFF) { at_ 0 0 with rcnt := 3 } =
    some ⟨0x00, 0, 0, 0xFF, 1, 0, 0x10, 0x000⟩ := by decide
/-- 95 V-RLE9: the stale value is kept, the run is closed -/
theorem test_eob : shownAfter .eob { at_ 1 1 with rval := 5, rcnt := 2, fidx := 0xFFFFFFFF } =
    some ⟨0x00, 0, 0, 0x05, 0, 0, 0x00, 0x000⟩ := by decide
/-- 95 V-RLE1 -/
theorem test_eob_empty : emitted .eob (at_ 1 1) = some ([], [.endMark]) := by decide

/-! Faults, reset, the step. -/

/-- 95 V-F1 -/
theorem test_overrun : shownAfter (.pix 0) { at_ 2 2 with acc := 0x0F, nb := 4, pcnt := 4 } =
    some ⟨0x0F, 4, 4, 0x00, 0, 0, 0x65, 0x100⟩ := by decide
/-- 95 V-F2 -/
theorem test_underrun : shownAfter .eoi { at_ 2 2 with acc := 0x07, nb := 3, pcnt := 3 } =
    some ⟨0x07, 3, 3, 0x00, 0, 0, 0x67, 0x200⟩ := by decide
/-- 95 V-F4: an illegal word wins over the underrun -/
theorem test_illegal_wins : (after (step (State.withFetchWord { at_ 2 2 with acc := 1, nb := 1, pcnt := 1 } 16 0x201))).map shown =
    some ⟨0x01, 1, 1, 0x00, 0, 0, 0x63, 0x201⟩ := by decide
/-- 95 V-F6: a command after a fault is ignored -/
theorem test_faulted_ignores : shownAfter .eob { at_ 1 1 with rval := 3, rcnt := 1, fault := true, cause := 1, finfo := 0x401 } =
    some ⟨0x00, 0, 0, 0x03, 1, 0, 0x13, 0x401⟩ := by decide
/-- 70 R210, R213: reset leaves the fault and latches the configuration inputs -/
theorem test_reset_step : (after (step { at_ 2 2 with
      fault := true, cause := 3, finfo := 0x200, cfgIn := { W := 8, H := 1 }, input := [.reset] })).map
        (fun t => (shown t, t.cfgW, t.cfgH)) =
    some (⟨0x00, 0, 0, 0x00, 0, 0, 0x00, 0x000⟩, 8, 1) := by decide
/-- 70 R225: new configuration inputs are not seen without a reset -/
theorem test_configure_step : (after (step { at_ 2 2 with input := [.configure { W := 8, H := 1 }] })).map
      (fun t => (t.cfgW, t.cfgH)) = some (2, 2) := by decide
/-- The first word after reset is run by the next step. -/
theorem test_first_word : (after (step (State.reset.withFetchWord 16 0x3AA))).map shown =
    some ⟨0x00, 0, 0, 0xAA, 1, 0, 0x10, 0x000⟩ := by decide
/-- 10 R36 -/
theorem test_view_status : ({ at_ 2 2 with acc := 0x0F, nb := 4, pcnt := 4, fault := true, cause := 2 } : State).view 2 = 0x65 := by
  decide
/-- 10 R36 -/
theorem test_view_above : ({ at_ 2 2 with acc := 0x0F } : State).view 15 = 0 := by decide

/-! Reference functions and the assembler. -/

/-- 95 S1 -/
theorem test_pack_bright : pack 8 8 (fun _ _ => 1) = List.replicate 8 0x00#8 := by decide +kernel
/-- 95 V-BP12: a checkerboard whose rows cross byte boundaries -/
theorem test_pack_checkerboard : pack 5 3 (fun x y => if (x + y) % 2 = 0 then 0 else 1) = [0xAA#8, 0xAA#8] := by
  decide +kernel
/-- 95 S2 -/
theorem test_rle_cap : rleEncode (List.replicate 256 0x7F#8) = [0xFF#8, 0x7F#8, 0x01#8, 0x7F#8] := by decide +kernel
/-- 95 round trip instances -/
theorem test_rle_decode : rleDecode [0x03#8, 0x00#8, 0x02#8, 0xFF#8, 0x01#8, 0x00#8] =
    some [0x00#8, 0x00#8, 0x00#8, 0xFF#8, 0xFF#8, 0x00#8] := by decide
/-- 95 S1 -/
theorem test_record : record [0x08#8, 0x00#8] = some [0x02#8, 0x00#8, 0x08#8, 0x00#8] := by decide
/-- 43 R160, R217: two completed buffers, the second empty, and bytes that no `END` follows yet -/
theorem test_payloads :
    State.payloads { at_ 8 8 with out := [.byte 0x08, .byte 0x00, .endMark, .endMark, .byte 0x01, .byte 0xAA] } =
      [[0x08#8, 0x00#8], []] := by decide
/-- 43 R163: an empty payload's record -/
theorem test_record_of_empty : record [] = some [0x00#8, 0x00#8] := by decide
/-- 95 S6 -/
theorem test_offsets : offsetTable [List.replicate 2 0, List.replicate 4 0, List.replicate 4 0] = [0, 4, 10] := by decide
/-- 30 R87 -/
theorem test_pseudo_commands : assemble [.drk, .brt, .word 0x5AB] = .ok [0x100#12, 0x1FF#12, 0x5AB#12] := by decide
/-- 95 P6, its first lines, with a comment, mixed case and all three number forms (30 R85) -/
theorem test_assemble_text :
    assembleText "; cfg\nByte 0xAA  ; buffer 0\n\nEOB\nREP 2, DRK\npix 0b11\nWORD 0x201".toList =
      .ok [0x3AA#12, 0x400#12, 0x100#12, 0x100#12, 0x103#12, 0x201#12] := by decide +kernel
/-- 30 R85 -/
theorem test_assemble_out_of_range : assembleText "PIX 256".toList = .error (.illFormed (.pix 256)) := by decide +kernel
/-- 30 R89 -/
theorem test_listing : listingLine 0x1FF#12 = "1FF  PIX 255".toList := by decide +kernel
/-- 30 R89: both forms of a run in one listing, each with the rule's own example -/
theorem test_listing_runs :
    listing [{ word := 0x1FF#12, count := 64, short := true }, { word := 0x1FF#12, count := 2, short := false }] =
      ["1FF x64".toList, "1FF  PIX 255".toList, "1FF  PIX 255".toList] := by decide +kernel

/-! Witnesses: for each statement with hypotheses, values that meet all of them. -/

/-- A block with configuration 3×3 that holds seven pixels: it meets the invariants. -/
def seven : State := { at_ 3 3 with acc := 0x55, nb := 7, pcnt := 7 }

/-- The block of 95 section 2's table before its `EOI`: a full image with a partial byte and an open run. -/
def full : State := { at_ 3 3 with acc := 1, nb := 1, pcnt := 9, rval := 0xAB, rcnt := 1, pk := [.byte 0xAB] }

theorem seven_inv : seven.Inv := by constructor <;> decide
theorem full_inv : full.Inv := by constructor <;> decide
theorem reset_inv : State.reset.Inv := by constructor <;> decide
theorem reset_flushed (W H : Dim) : (at_ W H).Flushed := ⟨rfl, rfl, rfl, rfl⟩

theorem test_witness_DecodeEncodeAgree : decode 0x1FF#12 = .command (.pix 255#8) ∧ encode (.pix 255#8) = 0x1FF#12 := by decide
theorem test_witness_OpcodeMapIsDecode : decode 0x400#12 = .command .eob ∧ decode 0xFFF#12 = .illegal .reservedOpcode := by decide
theorem test_witness_ReservedWords : decode 0x500#12 = .illegal .reservedOpcode ∧ decode 0x4FF#12 = .illegal .nonZeroArg ∧
    decode 0x4FF#12 ≠ .illegal .reservedOpcode := by decide
theorem test_witness_RepExpandsToCopies : Stmt.isRep .brt = false ∧ assemble [.brt] = .ok [0x1FF#12] := by decide
theorem test_witness_AssemblerChecksOperands : 255 ≤ 255 ∧ 255 < 256 := by decide
theorem test_witness_StepRunsTheOfferedCommand :
    (seven.offer 0x100#12).input = [.issue 0x100#12] ∧ decode 0x100#12 = .command (.pix 0#8) := by decide
theorem test_witness_IllegalWordLatches :
    (seven.offer 0x500#12).input = [.issue 0x500#12] ∧ (seven.offer 0x500#12).fault = false ∧ 5 ≤ (CmdWord.op 0x500#12).toNat := by
  decide
theorem test_witness_IllegalWordLatches_argument :
    (seven.offer 0x401#12).input = [.issue 0x401#12] ∧ CmdWord.op 0x401#12 = 0x4#4 ∧ CmdWord.arg 0x401#12 ≠ 0#8 := by decide
theorem test_witness_FaultedBlockDiscardsEveryWord :
    ({ seven with fault := true, input := [.issue 0xFFF#12] } : State).fault = true := by decide
theorem test_witness_RaisingChangesTheLatchOnly :
    (seven.offer 0x200#12).fault = false ∧ ∃ t, step (seven.offer 0x200#12) = .next t ∧ t.fault = true := ⟨rfl, _, rfl, rfl⟩
theorem test_witness_CauseOfEveryFault_overrun :
    (full.offer 0x100#12).fault = false ∧ ∃ t, step (full.offer 0x100#12) = .next t ∧ t.cause = 2#3 := ⟨rfl, _, rfl, rfl⟩
theorem test_witness_CauseOfEveryFault_illegal :
    (full.offer 0x201#12).fault = false ∧ ∃ t, step (full.offer 0x201#12) = .next t ∧ t.cause = 1#3 := ⟨rfl, _, rfl, rfl⟩
theorem test_witness_CauseOfEveryFault_underrun :
    (seven.offer 0x200#12).fault = false ∧ ∃ t, step (seven.offer 0x200#12) = .next t ∧ t.cause = 3#3 := ⟨rfl, _, rfl, rfl⟩
theorem test_witness_CauseOfEveryFault_none :
    (full.offer 0x200#12).fault = false ∧ ∃ t, step (full.offer 0x200#12) = .next t ∧ t.fault = false := ⟨rfl, _, rfl, rfl⟩
theorem test_witness_OnlyResetLeavesTheFault :
    ∃ s t : State, s.fault = true ∧ s.input.head? = some .reset ∧ step s = .next t ∧ t.fault = false :=
  ⟨{ full with fault := true, input := [.reset] }, _, rfl, rfl, rfl, rfl⟩
theorem test_witness_OnlyResetLeavesTheFault_word :
    ∃ s t : State, s.fault = true ∧ s.input.head? ≠ some .reset ∧ step s = .next t ∧ t.fault = true :=
  ⟨{ full with fault := true, input := [.issue 0#12] }, _, rfl, by decide, rfl, rfl⟩
theorem test_witness_OnlyResetLatchesConfiguration :
    ∃ s t : State, s.input.head? = some .reset ∧ step s = .next t ∧ t.cfgW ≠ s.cfgW :=
  ⟨{ full with cfgIn := { W := 8, H := 1 }, input := [.reset] }, _, rfl, rfl, by decide⟩
theorem test_witness_OnlyResetLatchesConfiguration_configure :
    ∃ s t : State, s.input.head? ≠ some .reset ∧ step s = .next t ∧ t.cfgIn.W ≠ t.cfgW :=
  ⟨{ full with input := [.configure { W := 8, H := 1 }] }, _, by decide, rfl, by decide⟩
theorem test_witness_ResetStepGivesResetValues : ({ full with input := [.reset] } : State).input = .reset :: [] := rfl
theorem test_witness_EmittedEventsStay : ∃ t, step (full.offer 0x200#12) = .next t ∧ t.out.length = 5 := ⟨_, rfl, by decide⟩
theorem test_witness_EmittedEventsStay_reset :
    ∃ t, step { full with input := [.reset] } = .next t ∧ t.earlier.length = 1 := ⟨_, rfl, by decide⟩
theorem test_witness_EveryStepCompletes : State.reset.input = [] := rfl
theorem test_witness_PixTakesAPixel :
    seven.fault = false ∧ seven.pcnt.toNat ≠ seven.cfgW.toNat * seven.cfgH.toNat ∧ seven.nb + 1#4 = 8#4 := by decide
theorem test_witness_PixTakesAPixel_no_byte :
    (at_ 3 3).fault = false ∧ (at_ 3 3).pcnt.toNat ≠ (at_ 3 3).cfgW.toNat * (at_ 3 3).cfgH.toNat ∧ (at_ 3 3).nb + 1#4 ≠ 8#4 := by
  decide
theorem test_witness_EoiEndsAnImage :
    full.fault = false ∧ full.pcnt.toNat = full.cfgW.toNat * full.cfgH.toNat ∧ full.nb ≠ 0#4 := by decide
theorem test_witness_EoiEndsAnImage_whole_bytes :
    (at_ 0 5).fault = false ∧ (at_ 0 5).pcnt.toNat = (at_ 0 5).cfgW.toNat * (at_ 0 5).cfgH.toNat ∧ (at_ 0 5).nb = 0#4 := by decide
theorem test_witness_ByteFeedsTheEncoder : full.fault = false := rfl
theorem test_witness_EobClosesTheBuffer : full.fault = false ∧ full.rcnt ≠ 0#8 ∧ (at_ 0 0).rcnt = 0#8 := by decide
theorem test_witness_RleByteProcedure :
    ({ full with rcnt := 254 } : State).rcnt.toNat < 255 ∧ ({ full with rcnt := 255 } : State).rcnt.toNat = 255 ∧
    full.rcnt ≠ 0#8 ∧ (at_ 0 0).rcnt = 0#8 := by decide
theorem test_witness_RleFlushProcedure : full.rcnt ≠ 0#8 ∧ (at_ 0 0).rcnt = 0#8 := by decide
theorem test_witness_OnlyZeroIsDark :
    (1#8 : Byte) ≠ 0#8 ∧ (255#8 : Byte) ≠ 0#8 ∧ seven.pcnt.toNat ≠ seven.cfgW.toNat * seven.cfgH.toNat := by decide
theorem test_witness_DimOverrunLatches :
    full.fault = false ∧ full.pcnt.toNat = full.cfgW.toNat * full.cfgH.toNat := by decide
theorem test_witness_DimUnderrunLatches :
    seven.fault = false ∧ seven.pcnt.toNat < seven.cfgW.toNat * seven.cfgH.toNat := by decide
theorem test_witness_EmptyImage : (at_ 0 5).cfgW = 0#16 ∧ (at_ 0 5).Flushed ∧ (at_ 0 5).fault = false ∧ (at_ 0 5).pcnt = 0#32 :=
  ⟨rfl, reset_flushed 0 5, rfl, rfl⟩
theorem test_witness_NoCommandTouchesItsSurroundings : ∃ t, exec (.pix 0#8) seven = .next t ∧ t ≠ seven := ⟨_, rfl, by decide⟩
theorem test_witness_ByteAndEobFrame :
    (∃ t, exec (.byte 3#8) full = .next t ∧ t ≠ full) ∧ ∃ t, exec .eob full = .next t ∧ t ≠ full :=
  ⟨⟨_, rfl, by decide⟩, _, rfl, by decide⟩
theorem test_witness_PixFrame :
    (∃ t, exec (.pix 0#8) (at_ 3 3) = .next t ∧ t ≠ at_ 3 3) ∧ ∃ t, exec (.pix 0#8) full = .next t ∧ t.fault = true :=
  ⟨⟨_, rfl, by decide⟩, _, rfl, rfl⟩
theorem test_witness_EoiFrame :
    (∃ t, exec .eoi full = .next t ∧ t.fault = false) ∧ ∃ t, exec .eoi seven = .next t ∧ t.fault = true :=
  ⟨⟨_, rfl, rfl⟩, _, rfl, rfl⟩
/-- 70 R228's greatest number of events is reached: `EOI` with a padded byte of another value than the open run. -/
theorem test_witness_MostEventsOfACommand :
    ∃ t, exec .eoi full = .next t ∧ t.pk.length = full.pk.length + maxPkEvents .eoi ∧
      t.out.length = full.out.length + maxOutEvents .eoi := ⟨_, rfl, by decide, by decide⟩
theorem test_witness_RegisterView : 10 ≤ (10 : Fin 16).val := by decide
theorem test_witness_EveryStepKeepsTheInvariants :
    (full.Inv ∧ ∃ t, step full = .next t) ∧ seven.Inv ∧ ∃ t, step seven = .next t :=
  ⟨⟨full_inv, _, rfl⟩, seven_inv, _, rfl⟩
theorem test_witness_OnlyFidxWraps :
    seven.Inv ∧ seven.fault = false ∧ (∃ t, exec (.pix 0#8) seven = .next t ∧ t.fault = false) ∧
    (full.rcnt ≠ 0#8 ∧ full.rval = 0xAB#8 ∧ full.rcnt.toNat < 255) ∧ ∃ t, exec .eob full = .next t :=
  ⟨seven_inv, rfl, ⟨_, rfl, rfl⟩, by decide, _, rfl⟩
theorem test_witness_WhatLeavesTheBlockFlushed :
    (full.fault = false ∧ ∃ t, exec .eoi full = .next t ∧ t.fault = false) ∧
    State.reset.Inv ∧ State.reset.pcnt = 0#32 ∧ ∃ t, exec .eob State.reset = .next t :=
  ⟨⟨rfl, _, rfl, rfl⟩, reset_inv, rfl, _, rfl⟩
theorem test_witness_FlushedStatesBehaveAlike :
    ∃ s₁ s₂ : State, s₁ ≠ s₂ ∧ s₁.Flushed ∧ s₂.Flushed ∧ s₁.cfgW = s₂.cfgW ∧ s₁.cfgH = s₂.cfgH ∧ s₁.input = s₂.input ∧
      s₁.input ≠ [] ∧ ∀ a ∈ s₁.input, a.isIssue = true :=
  ⟨(at_ 3 3).offer 0x100, { (at_ 3 3).offer 0x100 with acc := 9, rval := 7, fidx := 4 }, by decide, ⟨rfl, rfl, rfl, rfl⟩,
    ⟨rfl, rfl, rfl, rfl⟩, rfl, rfl, rfl, by decide, by decide⟩
theorem test_witness_StaleRvalHasNoEffect :
    (seven.offer 0x100#12).rcnt = 0#8 ∧ ∃ t, step (seven.offer 0x100#12) = .next t := ⟨rfl, _, rfl⟩
theorem test_witness_RunEndsInOneOfThreeWays :
    (at_ 3 3).endedWell ∧ State.endedBadly { full with fault := true } ∧ full.unfinished :=
  ⟨⟨rfl, reset_flushed 3 3⟩, rfl, rfl, rfl, by decide⟩
/-- 00 R16: a change of the inputs is no command, and the commands after the next reset are another run's. -/
theorem test_witness_RunEndsInOneOfThreeWays_configure :
    commandsLeft [.configure { W := 8, H := 1 }] = [] ∧
    State.endedWell { at_ 3 3 with input := [.configure { W := 8, H := 1 }] } ∧
    State.unfinished { full with input := [.configure { W := 8, H := 1 }] } :=
  ⟨rfl, ⟨rfl, rfl, rfl, rfl, rfl⟩, rfl, rfl, by decide⟩
theorem test_witness_RunEndsInOneOfThreeWays_reset :
    commandsLeft [.reset, .issue 0x100#12] = [] ∧ State.endedWell { at_ 3 3 with input := [.reset, .issue 0x100#12] } ∧
    State.unfinished { full with input := [.reset, .issue 0x100#12] } :=
  ⟨rfl, ⟨rfl, rfl, rfl, rfl, rfl⟩, rfl, rfl, by decide⟩
/-- A command behind a change of the inputs is still to be issued in this run. -/
theorem test_commands_left : commandsLeft [.configure { W := 8, H := 1 }, .issue 0x100#12, .reset, .issue 0x200#12] = [0x100#12] := by
  decide
theorem test_witness_DiagnosticOfAFault :
    ∃ s t : State, s.input = .issue 0x200#12 :: [.issue 0x100#12] ∧ s.fault = false ∧ step s = .next t ∧ t.fault = true ∧
      t.failedStage = some .bitPacker :=
  ⟨{ seven with input := [.issue 0x200#12, .issue 0x100#12] }, _, rfl, rfl, rfl, rfl, by decide⟩
/-- Log entry 15: the opcode of `EOI`, but no `EOI`. -/
theorem test_witness_DiagnosticOfAFault_commandDecoder :
    ∃ s t : State, s.input = .issue 0x201#12 :: [.issue 0x100#12] ∧ s.fault = false ∧ step s = .next t ∧ t.fault = true ∧
      t.cause = 1#3 ∧ t.failedStage = some .commandDecoder :=
  ⟨{ seven with input := [.issue 0x201#12, .issue 0x100#12] }, _, rfl, rfl, rfl, rfl, rfl, by decide⟩
theorem test_witness_EightPixelsMakeAByte :
    ∃ s : State, s.fault = false ∧ s.nb = 0#4 ∧ s.pcnt.toNat + 8 ≤ s.cfgW.toNat * s.cfgH.toNat ∧
      s.input = issues [.pix 0, .pix 1, .pix 0, .pix 1, .pix 0, .pix 1, .pix 0, .pix 0] ++ [] :=
  ⟨{ at_ 3 3 with input := issues [.pix 0, .pix 1, .pix 0, .pix 1, .pix 0, .pix 1, .pix 0, .pix 0] }, rfl, rfl, by decide, by
    decide⟩
theorem test_witness_PaddingOfTheLastByte :
    full.Inv ∧ full.fault = false ∧ full.pcnt.toNat = full.cfgW.toNat * full.cfgH.toNat ∧ full.nb ≠ 0#4 ∧
      ∃ t, exec .eoi full = .next t :=
  ⟨full_inv, rfl, by decide, by decide, _, rfl⟩
theorem test_witness_LengthOfAPackedImage :
    full.Inv ∧ full.fault = false ∧ ∃ t, exec .eoi full = .next t ∧ t.fault = false := ⟨full_inv, rfl, _, rfl, rfl⟩
theorem test_witness_ImageAgreesWithPack :
    (at_ 2 1).Flushed ∧ (at_ 2 1).cfgW.toNat = 2 ∧ (at_ 2 1).cfgH.toNat = 1 ∧ [0#8, 9#8].length = 2 * 1 ∧
    (∀ x y, x < 2 → y < 1 → ([0#8, 9#8].getD (y * 2 + x) 0#8 ≠ 0#8 ↔ 0 < (fun (x _ : Nat) => (x : Int)) x y)) ∧
    ({ at_ 2 1 with input := issues ([0#8, 9#8].map Instr.pix ++ [.eoi]) } : State).input =
      issues ([0#8, 9#8].map Instr.pix ++ [.eoi]) ++ [] := by
  refine ⟨reset_flushed 2 1, rfl, rfl, rfl, ?_, by simp⟩
  intro x y hx hy
  obtain rfl : y = 0 := by omega
  obtain rfl | rfl : x = 0 ∨ x = 1 := by omega
  · simp
  · simp
theorem test_witness_BufferAgreesWithRleEncode :
    ({ at_ 0 0 with input := issues ([7#8, 7#8].map Instr.byte ++ [.eob]) } : State).rcnt = 0#8 ∧
    ({ at_ 0 0 with input := issues ([7#8, 7#8].map Instr.byte ++ [.eob]) } : State).fault = false ∧
    ({ at_ 0 0 with input := issues ([7#8, 7#8].map Instr.byte ++ [.eob]) } : State).input =
      issues ([7#8, 7#8].map Instr.byte ++ [.eob]) ++ [] := by decide
theorem test_witness_EqualBuffersEqualOutputs :
    ∃ s : State, s.rcnt = 0#8 ∧ s.fault = false ∧
      s.input = issues ([7#8].map Instr.byte ++ [.eob] ++ [7#8].map Instr.byte ++ [.eob]) :=
  ⟨{ at_ 0 0 with input := issues ([7#8].map Instr.byte ++ [.eob] ++ [7#8].map Instr.byte ++ [.eob]) }, rfl, rfl, rfl⟩
theorem test_witness_RunCap : 1 ≤ 256 ∧ [1#8].getLast? ≠ some 2#8 ∧ [3#8].head? ≠ some 2#8 := by decide
theorem test_witness_EncodingIsUnique :
    rleDecode [255#8, 9#8, 1#8, 9#8] = some (List.replicate 256 9#8) ∧ countsLegal [255#8, 9#8, 1#8, 9#8] = true ∧
    neighboursMaximal [255#8, 9#8, 1#8, 9#8] = true := by decide +kernel
theorem test_witness_RecordFormat : (List.replicate 2 0#8).length ≤ 65535 ∧ 65535 < (List.replicate 65536 0#8).length := by
  rw [List.length_replicate, List.length_replicate]
  omega
theorem test_witness_OffsetsLocateRecords :
    ∃ C, container [[1#8, 2#8], [3#8, 4#8]] = some C ∧ 0 + 1 < [[1#8, 2#8], [3#8, 4#8]].length := ⟨_, rfl, by decide⟩
/-- A flushed block of configuration 2×1 that has completed a buffer and is offered the image dark, bright. -/
def secondImage : State :=
  { at_ 2 1 with
    fidx := 1, out := [.byte 0x01, .byte 0x80, .endMark], input := issues ([0#8, 9#8].map Instr.pix ++ [.eoi]) }

theorem test_witness_ImageBecomesARecord :
    secondImage.Inv ∧ secondImage.Flushed ∧ secondImage.cfgW.toNat = 2 ∧ secondImage.cfgH.toNat = 1 ∧
    [0#8, 9#8].length = 2 * 1 ∧
    (∀ x y, x < 2 → y < 1 → ([0#8, 9#8].getD (y * 2 + x) 0#8 ≠ 0#8 ↔ 0 < (fun (x _ : Nat) => (x : Int)) x y)) ∧
    secondImage.input = issues ([0#8, 9#8].map Instr.pix ++ [.eoi]) ++ [] ∧
    container secondImage.payloads = some [0x02#8, 0x00#8, 0x01#8, 0x80#8] ∧
    record (rleEncode (pack 2 1 fun x _ => (x : Int))) = some [0x02#8, 0x00#8, 0x01#8, 0x80#8] := by
  refine ⟨by constructor <;> decide, ⟨rfl, rfl, rfl, rfl⟩, rfl, rfl, rfl, ?_, by decide, by decide, by decide +kernel⟩
  exact test_witness_ImageAgreesWithPack.2.2.2.2.1
theorem test_witness_PayloadsAreWholePairs :
    secondImage.Inv ∧ [0x01#8, 0x80#8] ∈ secondImage.payloads ∧
    record [0x01#8, 0x80#8] = some [0x02#8, 0x00#8, 0x01#8, 0x80#8] :=
  ⟨test_witness_ImageBecomesARecord.1, by decide, by decide⟩
theorem test_witness_CapacityBound : 8 * 32767 ≤ 262136 := by decide

end Sys2Proof.Tests
end

section
/-! PROOFS. What a command and a command word do, branch by branch, and what they leave unchanged (10_state.md R27, R35):
the frames of the commands, and what leaves the block flushed (R42). -/

namespace Sys2Proof.Machine

/-! ## What the commands do, branch by branch -/

/-- `PIX` that does not complete a byte only shifts its bit in (40 R102). -/
theorem State.takePixel_of_short {v : Byte} {s : State} (h : s.nb + 1#4 ≠ 8#4) : s.takePixel v = s.shiftPixel v := by
  rw [State.takePixel_eq, if_neg h]

/-- `PIX` that completes a byte hands it over (40 R102). -/
theorem State.takePixel_of_eighth {v : Byte} {s : State} (h : s.nb + 1#4 = 8#4) :
    s.takePixel v = (s.shiftPixel v).handOver (shiftIn s.acc (packBit v)) := by
  rw [State.takePixel_eq, if_pos h]

/-- `EOI` on whole bytes has no byte to pad (40 R103). -/
theorem State.flushPartial_of_whole {s : State} (h : s.nb = 0#4) : s.flushPartial = s := by
  simp [State.flushPartial, h]

/-- `EOI` on a partial byte hands the padded byte over (40 R103). -/
theorem State.flushPartial_of_partial {s : State} (h : s.nb ≠ 0#4) :
    s.flushPartial = s.handOver (padByte s.acc s.nb) := by
  simp [State.flushPartial, h]

/-- `EOI` leaves no partial byte (40 R103). -/
theorem State.flushPartial_nb (s : State) : s.flushPartial.nb = 0#4 := by
  by_cases h : s.nb = 0#4
  · rw [State.flushPartial_of_whole h, h]
  · rw [State.flushPartial_of_partial h, State.handOver_eq]

theorem effect_pix (v : Byte) (s : State) :
    effect (.pix v) s = if s.imageFull then s.raiseFault .dimOverrun (encode (.pix v)) else s.takePixel v := rfl
theorem effect_eoi (s : State) :
    effect .eoi s = if s.imageFull then s.endImage else s.raiseFault .dimUnderrun (encode .eoi) := rfl
@[simp] theorem effect_byte (b : Byte) (s : State) : effect (.byte b) s = s.rleByte b := rfl
@[simp] theorem effect_eob (s : State) : effect .eob s = s.closeBuffer := rfl

/-- A pixel that the full image has no room for raises (60 R183). -/
theorem effect_pix_of_full {s : State} (h : s.pcnt.toNat = s.cfgW.toNat * s.cfgH.toNat) (v : Byte) :
    effect (.pix v) s = s.raiseFault .dimOverrun (encode (.pix v)) := by
  rw [effect_pix, if_pos (s.imageFull_iff.mpr h)]

/-- A pixel that the image has room for is taken (40 R102). -/
theorem effect_pix_of_room {s : State} (h : s.pcnt.toNat ≠ s.cfgW.toNat * s.cfgH.toNat) (v : Byte) :
    effect (.pix v) s = s.takePixel v := by
  rw [effect_pix, if_neg (mt s.imageFull_iff.mp h)]

/-- `EOI` on a full image ends it (40 R103). -/
theorem effect_eoi_of_full {s : State} (h : s.pcnt.toNat = s.cfgW.toNat * s.cfgH.toNat) :
    effect .eoi s = s.endImage := by
  rw [effect_eoi, if_pos (s.imageFull_iff.mpr h)]

/-- `EOI` on an image that is not full raises (60 R184). -/
theorem effect_eoi_of_short {s : State} (h : s.pcnt.toNat ≠ s.cfgW.toNat * s.cfgH.toNat) :
    effect .eoi s = s.raiseFault .dimUnderrun (encode .eoi) := by
  rw [effect_eoi, if_neg (mt s.imageFull_iff.mp h)]

/-! ## What the operations leave unchanged -/

/-- The fault latch (60 R188). -/
def State.latch (s : State) : Bool × BitVec 3 × CmdWord := (s.fault, s.cause, s.finfo)

/-- What belongs to the host or to earlier runs: the configuration, its inputs, the actions still to come, the streams
that earlier runs left (10 R29, R35; 20 R51). -/
def State.surroundings (s : State) : Dim × Dim × Cfg × List HostAction × List Outputs :=
  (s.cfgW, s.cfgH, s.cfgIn, s.input, s.earlier)

@[simp] theorem State.handOver_latch (b : Byte) (s : State) : (s.handOver b).latch = s.latch := by
  rw [State.handOver_eq]; rfl
@[simp] theorem State.handOver_surroundings (b : Byte) (s : State) :
    (s.handOver b).surroundings = s.surroundings := by
  rw [State.handOver_eq]; rfl

@[simp] theorem State.takePixel_latch (v : Byte) (s : State) : (s.takePixel v).latch = s.latch := by
  by_cases h : s.nb + 1#4 = 8#4
  · rw [State.takePixel_of_eighth h, State.handOver_latch]; rfl
  · rw [State.takePixel_of_short h]; rfl
@[simp] theorem State.takePixel_surroundings (v : Byte) (s : State) :
    (s.takePixel v).surroundings = s.surroundings := by
  by_cases h : s.nb + 1#4 = 8#4
  · rw [State.takePixel_of_eighth h, State.handOver_surroundings]; rfl
  · rw [State.takePixel_of_short h]; rfl

@[simp] theorem State.flushPartial_latch (s : State) : s.flushPartial.latch = s.latch := by
  by_cases h : s.nb = 0#4
  · rw [State.flushPartial_of_whole h]
  · rw [State.flushPartial_of_partial h, State.handOver_latch]
@[simp] theorem State.flushPartial_surroundings (s : State) : s.flushPartial.surroundings = s.surroundings := by
  by_cases h : s.nb = 0#4
  · rw [State.flushPartial_of_whole h]
  · rw [State.flushPartial_of_partial h, State.handOver_surroundings]

@[simp] theorem State.endImage_latch (s : State) : s.endImage.latch = s.latch := by
  rw [State.endImage_eq, ← s.flushPartial_latch]; rfl
@[simp] theorem State.endImage_surroundings (s : State) : s.endImage.surroundings = s.surroundings := by
  rw [State.endImage_eq, ← s.flushPartial_surroundings]; rfl

/-- No command changes what belongs to the host. -/
theorem effect_surroundings (i : Instr) (s : State) : (effect i s).surroundings = s.surroundings := by
  cases i with
  | nop => rfl
  | pix v =>
    rw [effect_pix]
    split
    · rfl
    · exact s.takePixel_surroundings v
  | eoi =>
    rw [effect_eoi]
    split
    · exact s.endImage_surroundings
    · rfl
  | byte b => rw [effect_byte, State.rleByte_eq]; rfl
  | eob => rw [effect_eob, State.closeBuffer_eq]; rfl

/-- A fault is the state with another latch, and nothing else changed (60 R188). -/
theorem State.raiseFault_eq_self_with_latch (c : Cause) (w : CmdWord) (s : State) :
    s.raiseFault c w =
      { s with
        fault := (s.raiseFault c w).fault
        cause := (s.raiseFault c w).cause
        finfo := (s.raiseFault c w).finfo } := rfl

/-! ## What a command word does -/

/-- The effect of a command word on a block that has not faulted: the command's, or the fault of an illegal word (60 R182). -/
def wordEffect (w : CmdWord) (s : State) : State :=
  match decode w with
  | .command i => effect i s
  | .illegal _ => s.raiseFault .illegalCmd w

/-- Which of the two a word does is the same in every state: decoding reads none (30 R90). -/
theorem wordEffect_cases (w : CmdWord) :
    (∃ i, ∀ s, wordEffect w s = effect i s) ∨ ∀ s, wordEffect w s = s.raiseFault .illegalCmd w := by
  unfold wordEffect
  cases decode w with
  | command i => exact .inl ⟨i, fun _ => rfl⟩
  | illegal why => exact .inr fun _ => rfl

/-- Every word completes, with its effect unless the block has faulted (60 R187, R189). -/
theorem runWord_eq (w : CmdWord) (s : State) : runWord w s = .next (s.unlessFaulted (wordEffect w)) := by
  cases hf : s.fault with
  | true => rw [runWord_of_fault hf, State.unlessFaulted_of_fault hf]
  | false =>
    rw [State.unlessFaulted_of_ok hf]
    obtain ⟨i, hd, hw⟩ | ⟨why, hd, hw⟩ := runWord_of_ok hf w <;> simp [hw, wordEffect, hd]

/-- A step on an offered word always completes. -/
theorem step_issue_eq {s : State} {w : CmdWord} {rest : List HostAction} (h : s.input = .issue w :: rest) :
    step s = .next (State.unlessFaulted (wordEffect w) { s with input := rest }) := by
  rw [step_issue h, runWord_eq]

/-- Everything a step can do: wait, run a word, take new configuration inputs, or reset (70 R232). -/
theorem step_cases {s t : State} (h : step s = .next t) :
    (s.input = [] ∧ t = s) ∨
    (∃ w rest, s.input = .issue w :: rest ∧ t = State.unlessFaulted (wordEffect w) { s with input := rest }) ∨
    (∃ cfg rest, s.input = .configure cfg :: rest ∧ t = { s with input := rest, cfgIn := cfg }) ∨
    (∃ rest, s.input = .reset :: rest ∧ t = State.hostReset { s with input := rest }) := by
  cases hin : s.input with
  | nil =>
    rw [step_wait hin] at h
    cases h
    exact .inl ⟨rfl, rfl⟩
  | cons a rest =>
    cases a with
    | issue w =>
      rw [step_issue_eq hin] at h
      cases h
      exact .inr (.inl ⟨w, rest, rfl, rfl⟩)
    | configure cfg =>
      rw [step_configure hin] at h
      cases h
      exact .inr (.inr (.inl ⟨cfg, rest, rfl, rfl⟩))
    | reset =>
      rw [step_reset hin] at h
      cases h
      exact .inr (.inr (.inr ⟨rest, rfl, rfl⟩))

/-! ## The frames of the commands -/

/-- Settles O30: every command keeps `State.surroundings`. -/
theorem noCommandTouchesItsSurroundings : Obligations.NoCommandTouchesItsSurroundings := by
  intro i s t h
  have hs : t.surroundings = s.surroundings := by
    obtain ⟨-, rfl⟩ | ⟨-, rfl⟩ := exec_cases h
    · rfl
    · exact effect_surroundings i s
  simpa [State.surroundings] using hs

/-- Settles O31: both commands are one record update of the RLE unit's registers and of `OUT`. -/
theorem byteAndEobFrame : Obligations.ByteAndEobFrame := by
  intro i s t hi h
  obtain ⟨-, rfl⟩ | ⟨-, rfl⟩ := exec_cases h
  · simp
  obtain ⟨b, rfl⟩ | rfl := hi
  · simp [State.rleByte_eq]
  · simp [State.closeBuffer_eq]

/-- Settles O32: a pixel is discarded, raises, or is taken; only its eighth bit reaches the RLE unit. -/
theorem pixFrame : Obligations.PixFrame := by
  intro v s t h
  obtain ⟨-, rfl⟩ | ⟨-, rfl⟩ := exec_cases h
  · simp
  by_cases hfull : s.pcnt.toNat = s.cfgW.toNat * s.cfgH.toNat
  · rw [effect_pix_of_full hfull]
    exact ⟨rfl, fun _ => ⟨rfl, rfl, rfl, rfl⟩, fun hroom => absurd hfull hroom,
      fun _ => s.raiseFault_eq_self_with_latch _ _⟩
  · rw [effect_pix_of_room hfull]
    have hlatch : (s.takePixel v).latch = s.latch := s.takePixel_latch v
    refine ⟨?fidx, fun hshort => ?rle, fun _ => by simpa [State.latch] using hlatch, fun h => absurd h hfull⟩
    case fidx =>
      by_cases h8 : s.nb + 1#4 = 8#4
      · simp [State.takePixel_of_eighth h8, State.handOver_eq]
      · simp [State.takePixel_of_short h8]
    case rle => simp [State.takePixel_of_short hshort]

/-- Settles O33: an `EOI` is discarded, ends a full image, or raises. -/
theorem eoiFrame : Obligations.EoiFrame := by
  intro s t h
  obtain ⟨-, rfl⟩ | ⟨-, rfl⟩ := exec_cases h
  · simp
  by_cases hfull : s.pcnt.toNat = s.cfgW.toNat * s.cfgH.toNat
  · rw [effect_eoi_of_full hfull]
    have hlatch : s.endImage.fault = s.fault ∧ s.endImage.cause = s.cause ∧ s.endImage.finfo = s.finfo := by
      simpa [State.latch] using s.endImage_latch
    obtain ⟨hfault, hcause, hfinfo⟩ := hlatch
    refine ⟨fun _ => ⟨hfault, hcause, hfinfo, fun hnb => ?_⟩, fun h => absurd hfull h⟩
    simp [State.endImage_eq, State.flushPartial_of_whole hnb]
  · rw [effect_eoi_of_short hfull]
    exact ⟨fun h => absurd h hfull, fun _ => s.raiseFault_eq_self_with_latch _ _⟩

/-- Settles O40: reset by its table; `EOI` that does not raise empties the unit's registers itself; `EOB` leaves `NB`
alone, which `PCNT = 0` makes 0. -/
theorem whatLeavesTheBlockFlushed : Obligations.WhatLeavesTheBlockFlushed := by
  refine ⟨fun cfg => ⟨rfl, rfl, rfl, rfl⟩, fun s t hok h ht => ?eoi, fun s t hinv hok hpcnt h => ?eob⟩
  case eoi =>
    rw [exec_of_ok hok] at h
    cases h
    by_cases hfull : s.pcnt.toNat = s.cfgW.toNat * s.cfgH.toNat
    · rw [effect_eoi_of_full hfull, State.endImage_eq] at ht ⊢
      exact ⟨s.flushPartial_nb, rfl, rfl, ht⟩
    · simp [effect_eoi_of_short hfull] at ht
  case eob =>
    rw [exec_of_ok hok] at h
    cases h
    have hnb : s.nb = 0#4 := BitVec.eq_of_toNat_eq (by rw [hinv.nbMod, hpcnt]; rfl)
    rw [effect_eob, State.closeBuffer_eq]
    exact ⟨hnb, hpcnt, rfl, hok⟩

end Sys2Proof.Machine
end

section
/-! PROOFS. The registers as the host sees them: after reset (10_state.md R40), through the register view (R36), and the bits of
`STATUS` (R30). -/

namespace Sys2Proof.Machine

/-- `STATUS` bit by bit (10 R30). -/
theorem State.status_getLsbD (s : State) (i : Nat) :
    s.status.getLsbD i =
      if i = 0 then s.fault
      else if i < 4 then s.cause.getLsbD (i - 1)
      else if i = 4 then s.runOpen
      else if i = 5 then s.bpPartial
      else if i = 6 then s.imgOpen
      else false := by
  have hstatus : s.status.getLsbD i = BitVec.getLsbD (w := 1 + 1 + 1 + 1 + 3 + 1)
    (0#1 ++ BitVec.ofBool s.imgOpen ++ BitVec.ofBool s.bpPartial ++ BitVec.ofBool s.runOpen ++ s.cause ++
      BitVec.ofBool s.fault) i := rfl
  rw [hstatus]
  simp only [BitVec.getLsbD_append, BitVec.getLsbD_ofBool]
  grind

/-- In a flushed state without a cause every bit of `STATUS` is 0 (10 R30). -/
theorem State.Flushed.status_eq_zero {s : State} (h : s.Flushed) (hcause : s.cause = 0#3) : s.status = 0#8 := by
  simp [State.status, State.imgOpen, State.bpPartial, State.runOpen, h.nb, h.pcnt, h.rcnt, h.fault, hcause]

/-- Settles O15: the step is `State.hostReset`, whose fields are those of the table. -/
theorem resetStepGivesResetValues : Obligations.ResetStepGivesResetValues := by
  intro s rest h
  have hstatus : (State.hostReset { s with input := rest }).status = 0#8 :=
    State.Flushed.status_eq_zero ⟨rfl, rfl, rfl, rfl⟩ rfl
  exact ⟨_, step_reset h, rfl, rfl, rfl, rfl, rfl, rfl, rfl, hstatus, rfl, rfl, rfl⟩

/-- Settles O16: `State.resetWith` is the table of 10 R40. -/
theorem registersAfterReset : Obligations.RegistersAfterReset := fun _ =>
  ⟨rfl, rfl, rfl, rfl, rfl, rfl, State.Flushed.status_eq_zero ⟨rfl, rfl, rfl, rfl⟩ rfl, rfl, rfl, rfl⟩

/-- The numbers above the ten registers read as 0 (10 R36). -/
theorem State.view_of_ten_le (s : State) {n : Fin 16} (h : 10 ≤ n.val) : s.view n = 0#32 := by
  unfold State.view
  split
  case h_11 => rfl
  all_goals omega

/-- Settles O35: each number reads its register zero-extended, which keeps the unsigned value. -/
theorem registerView : Obligations.RegisterView := by
  intro s
  have zeroExt {w : Nat} (hw : w ≤ 32) (x : BitVec w) : (x.setWidth 32).toNat = x.toNat :=
    BitVec.toNat_setWidth_of_le hw
  exact ⟨zeroExt (by decide) _, zeroExt (by decide) _, zeroExt (by decide) _, zeroExt (by decide) _, rfl, rfl,
    zeroExt (by decide) _, zeroExt (by decide) _, zeroExt (by decide) _, zeroExt (by decide) _,
    fun _ h => s.view_of_ten_le h⟩

/-- Settles O36: each bit is read off `State.status_getLsbD`. -/
theorem statusLayout : Obligations.StatusLayout := by
  intro s
  have hcause : s.status.extractLsb' 1 3 = s.cause := by
    apply BitVec.eq_of_getLsbD_eq
    intro i hi
    have hlt : 1 + i < 4 := by omega
    simp [State.status_getLsbD, hi, hlt]
  refine ⟨?fault, hcause, ?runOpen, ?bpPartial, ?imgOpen, ?zero, ?pin⟩
  case fault => rw [s.status_getLsbD]; rfl
  case runOpen => rw [s.status_getLsbD]; simp [State.runOpen]
  case bpPartial => rw [s.status_getLsbD]; simp [State.bpPartial]
  case imgOpen => rw [s.status_getLsbD]; simp [State.imgOpen]
  case zero => rw [s.status_getLsbD]; rfl
  case pin => rw [s.status_getLsbD]; rfl

end Sys2Proof.Machine
end

section
/-! PROOFS. The invariants (10_state.md R41, R31, R26; 20_memory.md R59) hold after reset and are kept by every step. They
are split into those of the BitPacker, of the fault latch and of the RLE unit, since an operation writes the registers of one
unit or two. -/

namespace Sys2Proof.Machine

/-! ## Streams that grow at their end -/

/-- What a stream counts since its last `END`, counted on over events appended to it. -/
@[simp] theorem bytesSinceEndFrom_append (n : Nat) (es fs : List Event) :
    bytesSinceEndFrom n (es ++ fs) = bytesSinceEndFrom (bytesSinceEndFrom n es) fs := by
  induction es generalizing n with
  | nil => rfl
  | cons e es ih => cases e <;> exact ih _

@[simp] theorem bytesSinceEnd_append_byte (es : List Event) (b : Byte) :
    bytesSinceEnd (es ++ [.byte b]) = bytesSinceEnd es + 1 := by
  simp [bytesSinceEnd]

@[simp] theorem bytesSinceEnd_append_endMark (es : List Event) : bytesSinceEnd (es ++ [.endMark]) = 0 := by
  simp [bytesSinceEnd]

@[simp] theorem endCount_append (es fs : List Event) : endCount (es ++ fs) = endCount es + endCount fs := by
  induction es with
  | nil => simp [endCount]
  | cons e es ih => cases e <;> simp [endCount, ih]; omega

/-- Behind whole pairs a stream is read from the start of a pair again (20 R59). -/
theorem wholePairs_append {es : List Event} (h : wholePairs es = true) (fs : List Event) :
    wholePairs (es ++ fs) = wholePairs fs := by
  induction es using wholePairs.induct with
  | case1 => rfl
  | case2 es ih => exact ih h
  | case3 c v es ih =>
    obtain ⟨hc, hes⟩ : c ≠ 0#8 ∧ wholePairs es = true := by simpa [wholePairs] using h
    simp [wholePairs, hc, ih hes]
  | case4 c es => simp [wholePairs] at h
  | case5 c => simp [wholePairs] at h

/-! ## The arithmetic of the BitPacker -/

/-- The area is below 2^32, so `PCNT` never wraps below it (40 R110). -/
theorem State.area_lt (s : State) : s.area < 2 ^ 32 := by
  have hW : s.cfgW.toNat ≤ 65535 := Nat.le_of_lt_succ s.cfgW.isLt
  have hH : s.cfgH.toNat ≤ 65535 := Nat.le_of_lt_succ s.cfgH.isLt
  calc s.area ≤ 65535 * 65535 := Nat.mul_le_mul hW hH
    _ < 2 ^ 32 := by norm_num

/-- One more bit in `ACC` (40 R108). -/
theorem toNat_shiftIn_lt {acc : Byte} {n : Nat} (h : acc.toNat < 2 ^ n) (bit : BitVec 1) :
    (shiftIn acc bit).toNat < 2 ^ (n + 1) := by
  have hacc : (acc <<< 1).toNat < 2 ^ (n + 1) := by
    rw [BitVec.toNat_shiftLeft, Nat.shiftLeft_eq]
    omega
  have hbit : (bit.setWidth 8).toNat < 2 ^ (n + 1) := by
    have := bit.isLt
    rw [BitVec.toNat_setWidth_of_le (by decide)]
    have := Nat.one_le_two_pow (n := n)
    omega
  rw [shiftIn, BitVec.toNat_or]
  exact Nat.or_lt_two_pow hacc hbit

/-! ## The invariants in three parts, each about the registers of one unit -/

/-- The invariants of the BitPacker and of `PK`. -/
structure PackerInv (acc : Byte) (nb : BitVec 4) (pcnt : BitVec 32) (pk : List Event) (area : Nat) : Prop where
  nbMod : nb.toNat = pcnt.toNat % 8
  pcntLe : pcnt.toNat ≤ area
  accLt : acc.toNat < 2 ^ nb.toNat
  pkBytes : bytesSinceEnd pk = pcnt.toNat / 8

/-- The invariants of the fault latch. -/
structure LatchInv (fault : Bool) (cause : BitVec 3) (finfo : CmdWord) : Prop where
  causeIff : cause = 0#3 ↔ fault = false
  causeLe : cause.toNat ≤ 3
  finfoZero : fault = false → finfo = 0#12

/-- The invariants of the RLE unit and of `OUT`. -/
structure OutInv (rcnt : Byte) (fidx : BitVec 32) (out : List Event) : Prop where
  outPairs : wholePairs out = true
  outClosed : rcnt = 0#8 → bytesSinceEnd out = 0
  fidxEnds : fidx = BitVec.ofNat 32 (endCount out)

/-- The invariants are those of the three units. -/
theorem State.inv_iff_units (s : State) :
    s.Inv ↔ PackerInv s.acc s.nb s.pcnt s.pk s.area ∧ LatchInv s.fault s.cause s.finfo ∧ OutInv s.rcnt s.fidx s.out :=
  ⟨fun h => ⟨⟨h.nbMod, h.pcntLe, h.accLt, h.pkBytes⟩, ⟨h.causeIff, h.causeLe, h.finfoZero⟩,
    ⟨h.outPairs, h.outClosed, h.fidxEnds⟩⟩,
   fun ⟨hp, hl, ho⟩ => ⟨hp.nbMod, hp.pcntLe, hp.accLt, hl.causeIff, hl.causeLe, hl.finfoZero, hp.pkBytes,
    ho.outPairs, ho.outClosed, ho.fidxEnds⟩⟩

/-! ### The BitPacker -/

/-- At the start of an image the BitPacker is empty. -/
theorem PackerInv.of_empty {pk : List Event} (hpk : bytesSinceEnd pk = 0) (area : Nat) :
    PackerInv 0#8 0#4 0#32 pk area :=
  ⟨rfl, Nat.zero_le _, by decide, hpk⟩

section
variable {acc : Byte} {nb : BitVec 4} {pcnt : BitVec 32} {pk : List Event} {area : Nat}

/-- `NB` is at most 7 between commands (10 R22). -/
theorem PackerInv.nb_le (h : PackerInv acc nb pcnt pk area) : nb.toNat ≤ 7 := by
  have := h.nbMod
  omega

/-- Counting a bit does not wrap `NB`. -/
theorem PackerInv.toNat_nb_succ (h : PackerInv acc nb pcnt pk area) : (nb + 1#4).toNat = nb.toNat + 1 := by
  have := h.nb_le
  rw [BitVec.toNat_add, BitVec.toNat_ofNat]
  omega

/-- Counting a pixel of an image that is not full does not wrap `PCNT` (40 R110). -/
theorem toNat_pcnt_succ (hroom : pcnt.toNat < area) (harea : area < 2 ^ 32) :
    (pcnt + 1#32).toNat = pcnt.toNat + 1 := by
  rw [BitVec.toNat_add, BitVec.toNat_ofNat]
  omega

/-- A pixel that completes no byte. -/
theorem PackerInv.short (h : PackerInv acc nb pcnt pk area) (hroom : pcnt.toNat < area) (harea : area < 2 ^ 32)
    (hshort : nb + 1#4 ≠ 8#4) (bit : BitVec 1) :
    PackerInv (shiftIn acc bit) (nb + 1#4) (pcnt + 1#32) pk area := by
  obtain ⟨hmod, hle, hacc, hpk⟩ := id h
  have hnb := h.toNat_nb_succ
  have hpcnt := toNat_pcnt_succ hroom harea
  have hlt : nb.toNat + 1 ≠ 8 := fun h8 => hshort (BitVec.eq_of_toNat_eq (hnb.trans h8))
  refine ⟨?nbMod, ?pcntLe, ?accLt, ?pkBytes⟩
  case nbMod => omega
  case pcntLe => omega
  case accLt => exact hnb ▸ toNat_shiftIn_lt hacc bit
  case pkBytes => omega

/-- A pixel that completes a byte: `ACC` is empty again, and `PK` holds one byte more. -/
theorem PackerInv.eighth (h : PackerInv acc nb pcnt pk area) (hroom : pcnt.toNat < area) (harea : area < 2 ^ 32)
    (h8 : nb + 1#4 = 8#4) (b : Byte) :
    PackerInv 0#8 0#4 (pcnt + 1#32) (pk ++ [.byte b]) area := by
  obtain ⟨hmod, hle, hacc, hpk⟩ := id h
  have hpcnt := toNat_pcnt_succ hroom harea
  have hnb : nb.toNat + 1 = 8 := by rw [← h.toNat_nb_succ, h8]; rfl
  refine ⟨?nbMod, ?pcntLe, by decide, ?pkBytes⟩
  case nbMod => rw [BitVec.toNat_ofNat]; omega
  case pcntLe => omega
  case pkBytes => rw [bytesSinceEnd_append_byte]; omega

end

/-! ### The fault latch -/

/-- The latch after reset (10 R40). -/
theorem LatchInv.of_ok : LatchInv false 0#3 0#12 := ⟨by decide, by decide, fun _ => rfl⟩

/-- The latch after a fault (60 R181, R188). -/
theorem LatchInv.of_raised (c : Cause) (w : CmdWord) : LatchInv true c.code w := by
  cases c <;> exact ⟨by decide, by decide, by simp⟩

/-! ### The RLE unit -/

/-- The RLE unit after reset (10 R40). -/
theorem OutInv.of_empty : OutInv 0#8 0#32 [] := ⟨rfl, fun _ => rfl, rfl⟩

section
variable {rcnt : Byte} {fidx : BitVec 32} {out : List Event}

/-- With a run open, whatever its length, nothing is claimed of the bytes since the last `END`. -/
theorem OutInv.run (h : OutInv rcnt fidx out) {n : Byte} (hn : n ≠ 0#8) : OutInv n fidx out :=
  ⟨h.outPairs, fun h0 => absurd h0 hn, h.fidxEnds⟩

/-- A pair leaves for `OUT` while another run is open. -/
theorem OutInv.pair (h : OutInv rcnt fidx out) {n c : Byte} (hn : n ≠ 0#8) (hc : c ≠ 0#8) (v : Byte) :
    OutInv n fidx (out ++ [.byte c, .byte v]) :=
  ⟨by simp [wholePairs_append h.outPairs, wholePairs, hc], fun h0 => absurd h0 hn,
    by simp [h.fidxEnds, endCount]⟩

/-- An `END` leaves for `OUT`. -/
theorem OutInv.endMark (h : OutInv rcnt fidx out) : OutInv 0#8 (fidx + 1#32) (out ++ [.endMark]) :=
  ⟨by simp [wholePairs_append h.outPairs, wholePairs], fun _ => bytesSinceEnd_append_endMark out,
    by simp [h.fidxEnds, endCount, BitVec.ofNat_add]⟩

end

/-- A byte given to the encoder opens or extends a run, or closes one and opens the next (41 R120). -/
theorem OutInv.rleByte {s : State} {fidx : BitVec 32} {out : List Event} (h : OutInv s.rcnt fidx out) (b : Byte) :
    OutInv (s.runAfter b) fidx (out ++ s.closedPair b) := by
  unfold State.closedPair
  split
  case isTrue => simpa using h.run (s.runAfter_ne_zero b)
  case isFalse hclose => exact h.pair (s.runAfter_ne_zero b) (fun h0 => hclose (.inl h0)) s.rval

/-- The end of a buffer: the pair of the open run, if any, then `END` (41 R121, R123). -/
theorem OutInv.closeBuffer {s : State} {fidx : BitVec 32} {out : List Event} (h : OutInv s.rcnt fidx out) :
    OutInv 0#8 (fidx + 1#32) (out ++ s.heldPair ++ [.endMark]) := by
  unfold State.heldPair
  split
  case isTrue => simpa using h.endMark
  case isFalse hrun => exact (h.pair hrun hrun s.rval).endMark

/-! ## Each operation keeps the invariants -/

theorem State.Inv.raiseFault {s : State} (h : s.Inv) (c : Cause) (w : CmdWord) : (s.raiseFault c w).Inv := by
  obtain ⟨hp, -, ho⟩ := s.inv_iff_units.mp h
  exact (State.inv_iff_units _).mpr ⟨hp, .of_raised c w, ho⟩

theorem State.Inv.rleByte {s : State} (h : s.Inv) (b : Byte) : (s.rleByte b).Inv := by
  obtain ⟨hp, hl, ho⟩ := s.inv_iff_units.mp h
  rw [State.rleByte_eq]
  exact (State.inv_iff_units _).mpr ⟨hp, hl, ho.rleByte b⟩

theorem State.Inv.closeBuffer {s : State} (h : s.Inv) : s.closeBuffer.Inv := by
  obtain ⟨hp, hl, ho⟩ := s.inv_iff_units.mp h
  rw [State.closeBuffer_eq]
  exact (State.inv_iff_units _).mpr ⟨hp, hl, ho.closeBuffer⟩

theorem State.Inv.takePixel {s : State} (h : s.Inv) (hroom : s.imageFull ≠ true) (v : Byte) : (s.takePixel v).Inv := by
  obtain ⟨hp, hl, ho⟩ := s.inv_iff_units.mp h
  have hlt : s.pcnt.toNat < s.area := lt_of_le_of_ne h.pcntLe (mt s.imageFull_iff.mpr hroom)
  by_cases h8 : s.nb + 1#4 = 8#4
  · rw [State.takePixel_of_eighth h8, State.handOver_eq]
    exact (State.inv_iff_units _).mpr ⟨hp.eighth hlt s.area_lt h8 _, hl, ho.rleByte _⟩
  · rw [State.takePixel_of_short h8]
    exact (State.inv_iff_units _).mpr ⟨hp.short hlt s.area_lt h8 _, hl, ho⟩

/-- What `EOI` has done before its two `END` events keeps the latch and `OUT` in order, and empties `ACC`. -/
theorem State.Inv.flushPartial {s : State} (h : s.Inv) :
    s.flushPartial.acc = 0#8 ∧ LatchInv s.flushPartial.fault s.flushPartial.cause s.flushPartial.finfo ∧
      OutInv s.flushPartial.rcnt s.flushPartial.fidx s.flushPartial.out := by
  obtain ⟨hp, hl, ho⟩ := s.inv_iff_units.mp h
  by_cases hnb : s.nb = 0#4
  · rw [State.flushPartial_of_whole hnb]
    have hacc : s.acc.toNat < 1 := by simpa [hnb] using h.accLt
    exact ⟨BitVec.eq_of_toNat_eq (Nat.lt_one_iff.mp hacc), hl, ho⟩
  · rw [State.flushPartial_of_partial hnb, State.handOver_eq]
    exact ⟨rfl, hl, ho.rleByte _⟩

theorem State.Inv.endImage {s : State} (h : s.Inv) : s.endImage.Inv := by
  obtain ⟨hacc, hl, ho⟩ := h.flushPartial
  rw [State.endImage_eq]
  refine (State.inv_iff_units _).mpr ⟨?packer, hl, ho.closeBuffer⟩
  simpa only [hacc, State.flushPartial_nb] using PackerInv.of_empty (bytesSinceEnd_append_endMark _) _

theorem effect_inv {s : State} (h : s.Inv) (i : Instr) : (effect i s).Inv := by
  cases i with
  | nop => exact h
  | pix v =>
    rw [effect_pix]
    split
    case isTrue => exact h.raiseFault _ _
    case isFalse hroom => exact h.takePixel hroom v
  | eoi =>
    rw [effect_eoi]
    split
    case isTrue => exact h.endImage
    case isFalse => exact h.raiseFault _ _
  | byte b => exact h.rleByte b
  | eob => exact h.closeBuffer

theorem wordEffect_inv {s : State} (h : s.Inv) (w : CmdWord) : (wordEffect w s).Inv := by
  obtain ⟨i, hi⟩ | hill := wordEffect_cases w
  · rw [hi]
    exact effect_inv h i
  · rw [hill]
    exact h.raiseFault _ _

theorem State.Inv.unlessFaulted {s : State} (h : s.Inv) {f : State → State} (hf : (f s).Inv) : (s.unlessFaulted f).Inv := by
  unfold State.unlessFaulted
  split
  · exact h
  · exact hf

/-- The invariants do not speak of the host's actions nor of the configuration inputs. -/
theorem State.Inv.withHost {s : State} (h : s.Inv) (input : List HostAction) (cfgIn : Cfg) :
    State.Inv { s with input := input, cfgIn := cfgIn } :=
  (State.inv_iff_units _).mpr (s.inv_iff_units.mp h)

/-- Reset reaches the invariants from every state. -/
theorem State.hostReset_inv (s : State) : s.hostReset.Inv :=
  (State.inv_iff_units _).mpr ⟨.of_empty rfl _, .of_ok, .of_empty⟩

theorem State.resetWith_inv (cfg : Cfg) : (State.resetWith cfg).Inv :=
  (State.inv_iff_units _).mpr ⟨.of_empty rfl _, .of_ok, .of_empty⟩

/-- Settles O38: a step waits, runs a word, takes new configuration inputs, or resets. -/
theorem everyStepKeepsTheInvariants : Obligations.EveryStepKeepsTheInvariants := by
  intro s t h hstep
  obtain ⟨-, rfl⟩ | ⟨w, rest, -, rfl⟩ | ⟨cfg, rest, -, rfl⟩ | ⟨rest, -, rfl⟩ := step_cases hstep
  · exact h
  · have hrest : State.Inv { s with input := rest } := h.withHost rest s.cfgIn
    exact hrest.unlessFaulted (wordEffect_inv hrest w)
  · exact h.withHost rest cfg
  · exact State.hostReset_inv _

/-- Settles O37: reset is the empty state of each unit. -/
theorem resetMeetsTheInvariants : Obligations.ResetMeetsTheInvariants :=
  ⟨State.resetWith_inv, State.resetWith_inv _⟩

end Sys2Proof.Machine
end

section
/-! PROOFS. With no run open the value of `RVAL` is stale (10_state.md R24): no step reads it. -/

namespace Sys2Proof.Machine

/-- The same state with another `RVAL`. -/
def State.withRval (x : Byte) (s : State) : State := { s with rval := x }

/-- `t` does not depend on the `RVAL` it came from: `t'`, reached from the other `RVAL` `x`, is `t`, or is `t` with `x` in
`RVAL` and no run open. -/
def StaleRval (x : Byte) (t t' : State) : Prop := t' = t ∨ (t.rcnt = 0#8 ∧ t' = t.withRval x)

section
variable {s : State} (hclosed : s.rcnt = 0#8) (x : Byte)
include hclosed

/-- With no run open the hand-over of a byte writes `RVAL` without reading it (41 R120). -/
theorem State.handOver_withRval (b : Byte) : (s.withRval x).handOver b = s.handOver b := by
  simp [State.handOver_eq, State.runAfter, State.closedPair, State.withRval, hclosed]

theorem State.rleByte_withRval (b : Byte) : (s.withRval x).rleByte b = s.rleByte b := by
  simp [State.rleByte_eq, State.runAfter, State.closedPair, State.withRval, hclosed]

/-- With no run open the end of a buffer neither reads nor writes `RVAL` (41 R121). -/
theorem State.closeBuffer_withRval : (s.withRval x).closeBuffer = s.closeBuffer.withRval x := by
  simp [State.closeBuffer_eq, State.heldPair, State.withRval, hclosed]

theorem State.takePixel_staleRval (v : Byte) : StaleRval x (s.takePixel v) ((s.withRval x).takePixel v) := by
  by_cases h8 : s.nb + 1#4 = 8#4
  · rw [State.takePixel_of_eighth h8, State.takePixel_of_eighth (s := s.withRval x) h8]
    exact .inl ((s.shiftPixel v).handOver_withRval hclosed x _)
  · rw [State.takePixel_of_short h8, State.takePixel_of_short (s := s.withRval x) h8]
    exact .inr ⟨hclosed, rfl⟩

theorem State.endImage_staleRval : StaleRval x s.endImage (s.withRval x).endImage := by
  by_cases hnb : s.nb = 0#4
  · have hflush : (s.withRval x).flushPartial = s.withRval x := State.flushPartial_of_whole hnb
    rw [State.endImage_eq, State.endImage_eq, State.flushPartial_of_whole hnb, hflush]
    exact .inr ⟨rfl, by simp [State.heldPair, State.withRval, hclosed]⟩
  · have hflush : (s.withRval x).flushPartial = s.flushPartial := by
      rw [State.flushPartial_of_partial hnb, State.flushPartial_of_partial (s := s.withRval x) hnb]
      exact s.handOver_withRval hclosed x _
    rw [State.endImage_eq, State.endImage_eq, hflush]
    exact .inl rfl

theorem effect_staleRval (i : Instr) : StaleRval x (effect i s) (effect i (s.withRval x)) := by
  have himage : (s.withRval x).imageFull = s.imageFull := rfl
  cases i with
  | nop => exact .inr ⟨hclosed, rfl⟩
  | pix v =>
    rw [effect_pix, effect_pix, himage]
    split
    · exact .inr ⟨hclosed, rfl⟩
    · exact State.takePixel_staleRval hclosed x v
  | eoi =>
    rw [effect_eoi, effect_eoi, himage]
    split
    · exact State.endImage_staleRval hclosed x
    · exact .inr ⟨hclosed, rfl⟩
  | byte b => exact .inl (State.rleByte_withRval hclosed x b)
  | eob => exact .inr ⟨by rw [effect_eob, State.closeBuffer_eq], State.closeBuffer_withRval hclosed x⟩

theorem wordEffect_staleRval (w : CmdWord) : StaleRval x (wordEffect w s) (wordEffect w (s.withRval x)) := by
  obtain ⟨i, hi⟩ | hill := wordEffect_cases w
  · rw [hi, hi]
    exact effect_staleRval hclosed x i
  · rw [hill, hill]
    exact .inr ⟨hclosed, rfl⟩

theorem unlessFaulted_staleRval {f : State → State} (hf : StaleRval x (f s) (f (s.withRval x))) :
    StaleRval x (s.unlessFaulted f) ((s.withRval x).unlessFaulted f) := by
  cases hfault : s.fault with
  | true =>
    rw [State.unlessFaulted_of_fault hfault, State.unlessFaulted_of_fault (s := s.withRval x) hfault]
    exact .inr ⟨hclosed, rfl⟩
  | false => rwa [State.unlessFaulted_of_ok hfault, State.unlessFaulted_of_ok (s := s.withRval x) hfault]

theorem step_staleRval {t : State} (hstep : step s = .next t) :
    ∃ t', step (s.withRval x) = .next t' ∧ StaleRval x t t' := by
  obtain ⟨hin, rfl⟩ | ⟨w, rest, hin, rfl⟩ | ⟨cfg, rest, hin, rfl⟩ | ⟨rest, hin, rfl⟩ := step_cases hstep
  · exact ⟨_, step_wait hin, .inr ⟨hclosed, rfl⟩⟩
  · have hrest : State.rcnt { s with input := rest } = 0#8 := hclosed
    exact ⟨_, step_issue_eq (s := s.withRval x) hin, unlessFaulted_staleRval hrest x (wordEffect_staleRval hrest x w)⟩
  · exact ⟨_, step_configure (s := s.withRval x) hin, .inr ⟨hclosed, rfl⟩⟩
  · exact ⟨_, step_reset (s := s.withRval x) hin, .inl rfl⟩

end

/-- Settles O42: `State.withRval` is the state with the other `RVAL`. -/
theorem staleRvalHasNoEffect : Obligations.StaleRvalHasNoEffect := by
  intro s t x hclosed hstep
  obtain ⟨t', hstep', rfl | ⟨hclosed', rfl⟩⟩ := step_staleRval hclosed x hstep
  · exact .inl hstep'
  · exact .inr ⟨hclosed', hstep'⟩

end Sys2Proof.Machine
end

section
/-! PROOFS. Two flushed states with the same configuration answer the same command words with the same events (10_state.md R42,
70_reset_and_hazards.md R231), by a relation between two runs that every word keeps. -/

namespace Sys2Proof.Machine

/-! ## The padded byte -/

/-- One more bit in `ACC` stands below those that already have their place in the padded byte (40 R105). -/
theorem padByte_shiftIn {nb : BitVec 4} (h : nb.toNat ≤ 7) (acc : Byte) (bit : BitVec 1) :
    padByte (shiftIn acc bit) (nb + 1#4) = padByte acc nb ||| bit.setWidth 8 <<< (7 - nb.toNat) := by
  have hnb : (nb + 1#4).toNat = nb.toNat + 1 := by
    rw [BitVec.toNat_add, BitVec.toNat_ofNat]
    omega
  have hacc : 1 + (7 - nb.toNat) = 8 - nb.toNat := by omega
  have hsub : 8 - (nb.toNat + 1) = 7 - nb.toNat := by omega
  rw [padByte, padByte, shiftIn, hnb, hsub, BitVec.shiftLeft_or_distrib, ← BitVec.shiftLeft_add, hacc]

/-- With 8 bits or more there is nothing to pad. -/
theorem padByte_of_eight_le {nb : BitVec 4} (h : 8 ≤ nb.toNat) (acc : Byte) : padByte acc nb = acc := by
  rw [padByte, Nat.sub_eq_zero_of_le h, BitVec.shiftLeft_zero]

/-- With no valid bit nothing of `ACC` is left. -/
theorem padByte_zero (acc : Byte) : padByte acc 0#4 = 0#8 := by
  simp [padByte]

/-- Only the valid bits of `ACC` have an effect on the valid bits after one more pixel. -/
theorem padByte_shiftIn_congr {nb : BitVec 4} {a b : Byte} (h : padByte a nb = padByte b nb) (bit : BitVec 1) :
    padByte (shiftIn a bit) (nb + 1#4) = padByte (shiftIn b bit) (nb + 1#4) := by
  rcases Nat.lt_or_ge nb.toNat 8 with hlt | hge
  · have hle : nb.toNat ≤ 7 := Nat.le_of_lt_succ hlt
    rw [padByte_shiftIn hle, padByte_shiftIn hle, h]
  · rw [padByte_of_eight_le hge, padByte_of_eight_le hge] at h
    rw [h]

/-! ## The relation between the two runs -/

/-- The two streams grew from `a` and `b` by the same events. -/
def SameGrowth (a b es fs : List Event) : Prop := ∃ p, es = a ++ p ∧ fs = b ++ p

theorem SameGrowth.append {a b es fs : List Event} (h : SameGrowth a b es fs) (p : List Event) :
    SameGrowth a b (es ++ p) (fs ++ p) := by
  obtain ⟨q, rfl, rfl⟩ := h
  exact ⟨q ++ p, by simp, by simp⟩

/-- `s`, run from `s₀`, and `t`, run from `t₀`, agree in all that a command word can bring out: of `ACC` only the valid
bits, of `RVAL` only the value of an open run. They have emitted the same events since `s₀` and `t₀`, and nothing but the same
command words is to come. -/
structure Alike (s₀ t₀ s t : State) : Prop where
  nb : s.nb = t.nb
  accBits : padByte s.acc s.nb = padByte t.acc s.nb
  pcnt : s.pcnt = t.pcnt
  rcnt : s.rcnt = t.rcnt
  rval : s.rcnt ≠ 0#8 → s.rval = t.rval
  fault : s.fault = t.fault
  cfgW : s.cfgW = t.cfgW
  cfgH : s.cfgH = t.cfgH
  input : s.input = t.input
  issues : ∀ a ∈ s.input, a.isIssue = true
  pk : SameGrowth s₀.pk t₀.pk s.pk t.pk
  out : SameGrowth s₀.out t₀.out s.out t.out

theorem State.Flushed.alike {s t : State} (hs : s.Flushed) (ht : t.Flushed) (hW : s.cfgW = t.cfgW)
    (hH : s.cfgH = t.cfgH) (hinput : s.input = t.input) (hissues : ∀ a ∈ s.input, a.isIssue = true) :
    Alike s t s t where
  nb := hs.nb.trans ht.nb.symm
  accBits := by rw [hs.nb, padByte_zero, padByte_zero]
  pcnt := hs.pcnt.trans ht.pcnt.symm
  rcnt := hs.rcnt.trans ht.rcnt.symm
  rval := fun h => absurd hs.rcnt h
  fault := hs.fault.trans ht.fault.symm
  cfgW := hW
  cfgH := hH
  input := hinput
  issues := hissues
  pk := ⟨[], by simp, by simp⟩
  out := ⟨[], by simp, by simp⟩

section
variable {s₀ t₀ s t : State} (h : Alike s₀ t₀ s t)
include h

theorem Alike.imageFull : s.imageFull = t.imageFull := by
  simp [State.imageFull, State.area, h.pcnt, h.cfgW, h.cfgH]

theorem Alike.closedPair (b : Byte) : s.closedPair b = t.closedPair b := by
  unfold State.closedPair
  by_cases h0 : s.rcnt = 0#8
  · simp [h0, ← h.rcnt]
  · simp [← h.rcnt, h.rval h0]

theorem Alike.runAfter (b : Byte) : s.runAfter b = t.runAfter b := by
  unfold State.runAfter
  by_cases h0 : s.rcnt = 0#8
  · simp [h0, ← h.rcnt]
  · simp [← h.rcnt, h.rval h0]

theorem Alike.heldPair : s.heldPair = t.heldPair := by
  unfold State.heldPair
  by_cases h0 : s.rcnt = 0#8
  · simp [h0, ← h.rcnt]
  · simp [← h.rcnt, h.rval h0]

theorem Alike.raiseFault (c : Cause) (w : CmdWord) : Alike s₀ t₀ (s.raiseFault c w) (t.raiseFault c w) :=
  { h with fault := rfl }

theorem Alike.rleByte (b : Byte) : Alike s₀ t₀ (s.rleByte b) (t.rleByte b) := by
  rw [State.rleByte_eq, State.rleByte_eq, ← h.runAfter, ← h.closedPair]
  exact { h with rcnt := rfl, rval := fun _ => rfl, out := h.out.append _ }

theorem Alike.closeBuffer : Alike s₀ t₀ s.closeBuffer t.closeBuffer := by
  rw [State.closeBuffer_eq, State.closeBuffer_eq, ← h.heldPair]
  exact { h with rcnt := rfl, rval := fun h0 => absurd rfl h0, out := (h.out.append _).append _ }

theorem Alike.handOver (b : Byte) : Alike s₀ t₀ (s.handOver b) (t.handOver b) := by
  rw [State.handOver_eq, State.handOver_eq, ← h.runAfter, ← h.closedPair]
  exact
    { h with
      nb := rfl, accBits := rfl, rcnt := rfl, rval := fun _ => rfl, pk := h.pk.append _, out := h.out.append _ }

theorem Alike.shiftPixel (v : Byte) : Alike s₀ t₀ (s.shiftPixel v) (t.shiftPixel v) :=
  { h with
    nb := congrArg (· + 1#4) h.nb
    accBits := padByte_shiftIn_congr h.accBits _
    pcnt := congrArg (· + 1#32) h.pcnt }

/-- The completed byte is all valid bits, so both blocks hand over the same byte. -/
theorem Alike.takePixel (v : Byte) : Alike s₀ t₀ (s.takePixel v) (t.takePixel v) := by
  by_cases h8 : s.nb + 1#4 = 8#4
  · have hbyte : shiftIn s.acc (packBit v) = shiftIn t.acc (packBit v) := by
      have hbits := (h.shiftPixel v).accBits
      rwa [State.shiftPixel_nb, h8, padByte_of_eight_le (by decide), padByte_of_eight_le (by decide)] at hbits
    rw [State.takePixel_of_eighth h8, State.takePixel_of_eighth (h.nb ▸ h8), ← hbyte]
    exact (h.shiftPixel v).handOver _
  · rw [State.takePixel_of_short h8, State.takePixel_of_short (h.nb ▸ h8)]
    exact h.shiftPixel v

theorem Alike.flushPartial : Alike s₀ t₀ s.flushPartial t.flushPartial := by
  by_cases hnb : s.nb = 0#4
  · rwa [State.flushPartial_of_whole hnb, State.flushPartial_of_whole (h.nb ▸ hnb)]
  · rw [State.flushPartial_of_partial hnb, State.flushPartial_of_partial (h.nb ▸ hnb), ← h.nb, ← h.accBits]
    exact h.handOver _

theorem Alike.endImage : Alike s₀ t₀ s.endImage t.endImage := by
  have hflush := h.flushPartial
  rw [State.endImage_eq, State.endImage_eq, ← hflush.heldPair]
  exact
    { hflush with
      pcnt := rfl, rcnt := rfl, rval := fun h0 => absurd rfl h0
      pk := hflush.pk.append _, out := (hflush.out.append _).append _ }

theorem Alike.effect (i : Instr) : Alike s₀ t₀ (effect i s) (effect i t) := by
  cases i with
  | nop => exact h
  | pix v =>
    rw [effect_pix, effect_pix, ← h.imageFull]
    split
    · exact h.raiseFault _ _
    · exact h.takePixel v
  | eoi =>
    rw [effect_eoi, effect_eoi, ← h.imageFull]
    split
    · exact h.endImage
    · exact h.raiseFault _ _
  | byte b => exact h.rleByte b
  | eob => exact h.closeBuffer

theorem Alike.wordEffect (w : CmdWord) : Alike s₀ t₀ (wordEffect w s) (wordEffect w t) := by
  obtain ⟨i, hi⟩ | hill := wordEffect_cases w
  · rw [hi, hi]
    exact h.effect i
  · rw [hill, hill]
    exact h.raiseFault _ _

theorem Alike.unlessFaulted {f : State → State} (hf : Alike s₀ t₀ (f s) (f t)) :
    Alike s₀ t₀ (s.unlessFaulted f) (t.unlessFaulted f) := by
  cases hfault : s.fault with
  | true => rwa [State.unlessFaulted_of_fault hfault, State.unlessFaulted_of_fault (h.fault ▸ hfault)]
  | false => rwa [State.unlessFaulted_of_ok hfault, State.unlessFaulted_of_ok (h.fault ▸ hfault)]

theorem Alike.step : ∃ s' t', step s = .next s' ∧ step t = .next t' ∧ Alike s₀ t₀ s' t' := by
  cases hin : s.input with
  | nil => exact ⟨s, t, step_wait hin, step_wait (h.input ▸ hin), h⟩
  | cons a rest =>
    cases a with
    | issue w =>
      have hrest : Alike s₀ t₀ { s with input := rest } { t with input := rest } :=
        { h with input := rfl, issues := fun a ha => h.issues a (hin ▸ List.mem_cons_of_mem _ ha) }
      exact ⟨_, _, step_issue_eq hin, step_issue_eq (h.input ▸ hin), hrest.unlessFaulted (hrest.wordEffect w)⟩
    | configure cfg => exact absurd (h.issues (.configure cfg) (by simp [hin])) (by simp [HostAction.isIssue])
    | reset => exact absurd (h.issues .reset (by simp [hin])) (by decide)

end

/-- Any number of steps keeps two runs alike. -/
theorem Alike.run {s₀ t₀ s t : State} (h : Alike s₀ t₀ s t) (k : Nat) :
    ∃ s' t', Host.Core.run core k s = .next s' ∧ Host.Core.run core k t = .next t' ∧ Alike s₀ t₀ s' t' := by
  induction k generalizing s t with
  | zero => exact ⟨s, t, rfl, rfl, h⟩
  | succ k ih =>
    obtain ⟨s₁, t₁, hs, ht, h₁⟩ := h.step
    obtain ⟨s', t', hs', ht', h'⟩ := ih h₁
    exact ⟨s', t', (run_succ core k s s₁ hs).trans hs', (run_succ core k t t₁ ht).trans ht', h'⟩

/-- Settles O41: flushed states are alike, whatever the bits of `ACC` above `NB = 0` and the value of the closed run. -/
theorem flushedStatesBehaveAlike : Obligations.FlushedStatesBehaveAlike := by
  intro s₁ s₂ k h₁ h₂ hW hH hinput hissues
  obtain ⟨t₁, t₂, hrun₁, hrun₂, halike⟩ := (h₁.alike h₂ hW hH hinput hissues).run k
  obtain ⟨p, hp₁, hp₂⟩ := halike.pk
  obtain ⟨o, ho₁, ho₂⟩ := halike.out
  exact ⟨t₁, t₂, p, o, hrun₁, hrun₂, hp₁, hp₂, ho₁, ho₂⟩

end Sys2Proof.Machine
end

section
/-! PROOFS. The streams at the block's boundary (20_memory.md R50): an offered word that decodes runs as its command (R52, R63),
and an emitted event is never changed or withdrawn (R51), since every operation only appends to a stream. -/

namespace Sys2Proof.Machine

/-! ## The command stream -/

/-- A word that decodes to a command runs that command. -/
theorem runWord_of_command {w : CmdWord} {i : Instr} (h : decode w = .command i) (s : State) : runWord w s = exec i s := by
  simp [runWord, h]

/-- Settles O8: a step on an offered word runs that word, and the word runs its command. -/
theorem stepRunsTheOfferedCommand : Obligations.StepRunsTheOfferedCommand := fun _ _ _ _ hin hdecode =>
  (step_issue hin).trans (runWord_of_command hdecode _)

/-! ## Streams that only grow -/

/-- `t` has emitted what `s` had emitted and perhaps more, in the same run (20 R51). -/
structure State.Grows (s t : State) : Prop where
  pk : s.pk <+: t.pk
  out : s.out <+: t.out
  earlier : t.earlier = s.earlier

/-- A state that holds the same streams has withdrawn nothing. -/
theorem State.Grows.of_eq {s t : State} (hpk : t.pk = s.pk) (hout : t.out = s.out) (hearlier : t.earlier = s.earlier) :
    s.Grows t :=
  ⟨hpk ▸ List.prefix_rfl, hout ▸ List.prefix_rfl, hearlier⟩

theorem State.Grows.refl (s : State) : s.Grows s := .of_eq rfl rfl rfl

theorem State.Grows.trans {s t u : State} (hst : s.Grows t) (htu : t.Grows u) : s.Grows u :=
  ⟨hst.pk.trans htu.pk, hst.out.trans htu.out, htu.earlier.trans hst.earlier⟩

theorem State.emit_grows (p : Port) (e : Event) (s : State) : s.Grows (s.emit p e) := by
  cases p with
  | pk => exact ⟨List.prefix_append _ _, List.prefix_rfl, rfl⟩
  | out => exact ⟨List.prefix_rfl, List.prefix_append _ _, rfl⟩

theorem State.raiseFault_grows (c : Cause) (w : CmdWord) (s : State) : s.Grows (s.raiseFault c w) := .of_eq rfl rfl rfl

theorem State.rleByte_grows (b : Byte) (s : State) : s.Grows (s.rleByte b) := by
  rw [State.rleByte_eq]
  exact ⟨List.prefix_rfl, List.prefix_append _ _, rfl⟩

theorem State.handOver_grows (b : Byte) (s : State) : s.Grows (s.handOver b) := by
  rw [State.handOver_eq]
  exact ⟨List.prefix_append _ _, List.prefix_append _ _, rfl⟩

theorem State.closeBuffer_grows (s : State) : s.Grows s.closeBuffer := by
  rw [State.closeBuffer_eq, List.append_assoc]
  exact ⟨List.prefix_rfl, List.prefix_append _ _, rfl⟩

theorem State.takePixel_grows (v : Byte) (s : State) : s.Grows (s.takePixel v) := by
  have hshift : s.Grows (s.shiftPixel v) := .of_eq rfl rfl rfl
  by_cases h8 : s.nb + 1#4 = 8#4
  · rw [State.takePixel_of_eighth h8]
    exact hshift.trans (State.handOver_grows _ _)
  · rwa [State.takePixel_of_short h8]

theorem State.flushPartial_grows (s : State) : s.Grows s.flushPartial := by
  by_cases hnb : s.nb = 0#4
  · rw [State.flushPartial_of_whole hnb]
    exact .refl s
  · rw [State.flushPartial_of_partial hnb]
    exact State.handOver_grows _ _

/-- `EOI` hands over what is left, ends the image on `PK`, and closes the buffer on `OUT` (40 R103). -/
theorem State.endImage_grows (s : State) : s.Grows s.endImage := by
  have hclose : s.Grows (s.flushPartial.emit .pk .endMark).closeBuffer :=
    (s.flushPartial_grows.trans (State.emit_grows _ _ _)).trans (State.closeBuffer_grows _)
  exact hclose.trans (.of_eq rfl rfl rfl)

theorem effect_grows (i : Instr) (s : State) : s.Grows (effect i s) := by
  cases i with
  | nop => exact .refl s
  | pix v =>
    rw [effect_pix]
    split
    · exact State.raiseFault_grows _ _ s
    · exact s.takePixel_grows v
  | eoi =>
    rw [effect_eoi]
    split
    · exact s.endImage_grows
    · exact State.raiseFault_grows _ _ s
  | byte b => exact s.rleByte_grows b
  | eob => exact s.closeBuffer_grows

theorem wordEffect_grows (w : CmdWord) (s : State) : s.Grows (wordEffect w s) := by
  obtain ⟨i, hi⟩ | hill := wordEffect_cases w
  · rw [hi]
    exact effect_grows i s
  · rw [hill]
    exact State.raiseFault_grows _ w s

theorem State.unlessFaulted_grows {f : State → State} {s : State} (hf : s.Grows (f s)) : s.Grows (s.unlessFaulted f) := by
  cases hfault : s.fault with
  | true =>
    rw [State.unlessFaulted_of_fault hfault]
    exact .refl s
  | false => rwa [State.unlessFaulted_of_ok hfault]

/-- A step emits nothing or appends, unless it is a reset (20 R51). -/
theorem step_grows {s t : State} (hstep : step s = .next t) (hreset : s.input.head? ≠ some .reset) : s.Grows t := by
  obtain ⟨-, rfl⟩ | ⟨w, rest, -, rfl⟩ | ⟨cfg, rest, -, rfl⟩ | ⟨rest, hin, -⟩ := step_cases hstep
  · exact .refl _
  · have hconsume : s.Grows { s with input := rest } := .of_eq rfl rfl rfl
    exact hconsume.trans (State.unlessFaulted_grows (wordEffect_grows w _))
  · exact .of_eq rfl rfl rfl
  · exact absurd (congrArg List.head? hin) hreset

/-- Settles O17: every step but a reset only appends; a reset moves both streams to those of the earlier runs (70 R211). -/
theorem emittedEventsStay : Obligations.EmittedEventsStay := by
  refine fun s t hstep => ⟨fun hreset => ?grows, fun hreset => ?reset⟩
  case grows =>
    obtain ⟨hpk, hout, hearlier⟩ := step_grows hstep hreset
    exact ⟨hpk, hout, hearlier⟩
  case reset =>
    obtain ⟨rest, hin⟩ : ∃ rest, s.input = .reset :: rest := List.head?_eq_some_iff.mp hreset
    rw [step_reset hin] at hstep
    cases hstep
    exact ⟨rfl, rfl, rfl⟩

end Sys2Proof.Machine
end

section
/-! PROOFS. The encoding of the commands (30_encoding.md R71, R80 to R83, R86, R90): a word is its two fields, and decoding, the
encoder and the opcode map all speak of these fields. -/

namespace Sys2Proof.Machine

/-! ## A word is its two fields -/

@[simp] theorem op_ofFields (op : BitVec 4) (arg : Byte) : (CmdWord.ofFields op arg).op = op :=
  BitVec.extractLsb'_append_eq_left

@[simp] theorem arg_ofFields (op : BitVec 4) (arg : Byte) : (CmdWord.ofFields op arg).arg = arg :=
  BitVec.extractLsb'_append_eq_right

@[simp] theorem ofFields_op_arg (w : CmdWord) : CmdWord.ofFields w.op w.arg = w :=
  BitVec.extractLsb'_append_extractLsb'

theorem ofFields_inj {op op' : BitVec 4} {arg arg' : Byte} :
    CmdWord.ofFields op arg = CmdWord.ofFields op' arg' ↔ op = op' ∧ arg = arg' := by
  constructor
  · intro h
    exact ⟨by simpa using congrArg CmdWord.op h, by simpa using congrArg CmdWord.arg h⟩
  · rintro ⟨rfl, rfl⟩
    rfl

/-- The encoder puts a command's opcode and operand into the fields of its word (30 R71, R72, R86). -/
theorem encode_eq_ofFields (i : Instr) : encode i = CmdWord.ofFields i.opcode i.operand := by
  have hfields : Laws.Encoding.Statement i := by
    cases i with
    | nop => exact Laws.Encoding.nop
    | pix v => exact Laws.Encoding.pix v
    | eoi => exact Laws.Encoding.eoi
    | byte b => exact Laws.Encoding.byte b
    | eob => exact Laws.Encoding.eob
  obtain ⟨hop, harg, -⟩ := hfields
  rw [← ofFields_op_arg (encode i), hop, harg]

theorem eq_encode_iff {i : Instr} {w : CmdWord} : w = encode i ↔ w.op = i.opcode ∧ w.arg = i.operand := by
  rw [encode_eq_ofFields, ← ofFields_inj, ofFields_op_arg]

/-! ## The decoder -/

/-- Opcodes 0 to 4 are those of the five commands, and 5 to 15 are reserved (30 R80, R81). -/
theorem opcode_cases (op : BitVec 4) :
    op = 0x0#4 ∨ op = 0x1#4 ∨ op = 0x2#4 ∨ op = 0x3#4 ∨ op = 0x4#4 ∨ 5 ≤ op.toNat := by
  bv_omega

/-- A reserved opcode is none of the commands' opcodes. -/
theorem op_ne_of_reserved {op k : BitVec 4} (hop : 5 ≤ op.toNat) (hk : k.toNat < 5) : op ≠ k := by
  rintro rfl
  omega

/-- A word with the fields of a command decodes to it. -/
theorem decode_of_fields {i : Instr} {w : CmdWord} (hop : w.op = i.opcode) (harg : w.arg = i.operand) :
    decode w = .command i := by
  cases i <;> simp [decode, decodeN, hop, harg, Instr.opcode, Instr.operand]

/-- A format-N opcode admits operand 0 only (30 R82). -/
theorem decode_of_nonZeroArg {w : CmdWord} (hop : w.op = 0x0#4 ∨ w.op = 0x2#4 ∨ w.op = 0x4#4) (harg : w.arg ≠ 0#8) :
    decode w = .illegal .nonZeroArg := by
  obtain h | h | h := hop <;> simp [decode, decodeN, h, harg]

/-- An opcode of 5 or more is rejected whatever the operand is (30 R81). -/
theorem decode_of_reservedOpcode {w : CmdWord} (hop : 5 ≤ w.op.toNat) : decode w = .illegal .reservedOpcode := by
  simp [decode, op_ne_of_reserved hop]

/-- Every word has the fields of a command, or is reserved on one of the two grounds (30 R80 to R82). -/
theorem fields_cases (w : CmdWord) :
    (∃ i : Instr, w.op = i.opcode ∧ w.arg = i.operand) ∨
    ((w.op = 0x0#4 ∨ w.op = 0x2#4 ∨ w.op = 0x4#4) ∧ w.arg ≠ 0#8) ∨
    5 ≤ w.op.toNat := by
  have harg : w.arg = 0#8 ∨ w.arg ≠ 0#8 := eq_or_ne _ _
  obtain h | h | h | h | h | h := opcode_cases w.op
  · exact harg.imp (⟨.nop, h, ·⟩) fun hne => .inl ⟨.inl h, hne⟩
  · exact .inl ⟨.pix w.arg, h, rfl⟩
  · exact harg.imp (⟨.eoi, h, ·⟩) fun hne => .inl ⟨.inr (.inl h), hne⟩
  · exact .inl ⟨.byte w.arg, h, rfl⟩
  · exact harg.imp (⟨.eob, h, ·⟩) fun hne => .inl ⟨.inr (.inr h), hne⟩
  · exact .inr (.inr h)

/-- Everything decoding can give, each answer with the fields it is given for (30 R90). -/
theorem decode_cases (w : CmdWord) :
    (∃ i, decode w = .command i ∧ w.op = i.opcode ∧ w.arg = i.operand) ∨
    (decode w = .illegal .nonZeroArg ∧ (w.op = 0x0#4 ∨ w.op = 0x2#4 ∨ w.op = 0x4#4) ∧ w.arg ≠ 0#8) ∨
    (decode w = .illegal .reservedOpcode ∧ 5 ≤ w.op.toNat) := by
  obtain ⟨i, hop, harg⟩ | ⟨hop, harg⟩ | hop := fields_cases w
  · exact .inl ⟨i, decode_of_fields hop harg, hop, harg⟩
  · exact .inr (.inl ⟨decode_of_nonZeroArg hop harg, hop, harg⟩)
  · exact .inr (.inr ⟨decode_of_reservedOpcode hop, hop⟩)

/-- Settles O2: both sides say that the fields of the word are the command's. -/
theorem decodeEncodeAgree : Obligations.DecodeEncodeAgree := by
  intro i w
  rw [eq_encode_iff]
  constructor
  · intro h
    obtain ⟨j, hj, hfields⟩ | ⟨hillegal, -⟩ | ⟨hillegal, -⟩ := decode_cases w
    · obtain rfl : j = i := by simpa [hj] using h
      exact hfields
    · simp [hillegal] at h
    · simp [hillegal] at h
  · rintro ⟨hop, harg⟩
    exact decode_of_fields hop harg

/-- Settles O1: the thirteen words, by running the decoder on each. -/
theorem decodeOfWrittenWords : Obligations.DecodeOfWrittenWords := by
  unfold Obligations.DecodeOfWrittenWords
  decide

/-- Settles O4: the three answers of the decoder stand for disjoint sets of fields. -/
theorem reservedWords : Obligations.ReservedWords := by
  intro w
  obtain ⟨i, hd, hop, harg⟩ | ⟨hd, hop, harg⟩ | ⟨hd, hop⟩ := decode_cases w
  · cases i <;> simp [hd, hop, harg, Instr.opcode, Instr.operand]
  · have hlow : w.op.toNat < 5 := by obtain h | h | h := hop <;> simp [h]
    simp [hd, hop, harg, hlow]
  · simp [hd, hop, op_ne_of_reserved hop]

/-! ## The opcode map -/

/-- A format-N row compares the whole word (30 R80). -/
theorem rowMatches_formatN (name : String) (op : BitVec 4) (w : CmdWord) :
    rowMatches (name, CmdWord.ofFields op 0#8, 0xFFF#12) w = decide (w.op = op ∧ w.arg = 0#8) := by
  have hmask : w &&& 0xFFF#12 = CmdWord.ofFields w.op w.arg := by
    rw [ofFields_op_arg]
    exact BitVec.and_allOnes
  simp only [rowMatches, hmask, beq_eq_decide, ofFields_inj]

/-- A format-D row compares the opcode field only (30 R80). -/
theorem rowMatches_formatD (name : String) (op : BitVec 4) (w : CmdWord) :
    rowMatches (name, CmdWord.ofFields op 0#8, 0xF00#12) w = decide (w.op = op) := by
  have hmask : w &&& 0xF00#12 = CmdWord.ofFields w.op 0#8 := by
    calc w &&& 0xF00#12 = (w.op ++ w.arg) &&& (0xF#4 ++ 0#8) := by rw [← CmdWord.ofFields, ofFields_op_arg]; rfl
      _ = CmdWord.ofFields w.op 0#8 := by
        rw [BitVec.and_append, BitVec.and_zero, CmdWord.ofFields]
        exact congrArg (· ++ 0#8) BitVec.and_allOnes
  simp only [rowMatches, hmask, beq_eq_decide, ofFields_inj, and_true]

theorem opcodeTable_eq_fields : opcodeTable =
    [("NOP", CmdWord.ofFields 0x0#4 0#8, 0xFFF#12), ("PIX", CmdWord.ofFields 0x1#4 0#8, 0xF00#12),
      ("EOI", CmdWord.ofFields 0x2#4 0#8, 0xFFF#12), ("BYTE", CmdWord.ofFields 0x3#4 0#8, 0xF00#12),
      ("EOB", CmdWord.ofFields 0x4#4 0#8, 0xFFF#12)] := rfl

/-- Settles O3: a row asks of a word the fields that decoding asks of it. -/
theorem opcodeMapIsDecode : Obligations.OpcodeMapIsDecode := by
  intro w
  rw [opcodeTable_eq_fields]
  obtain ⟨i, hd, hop, harg⟩ | ⟨hd, hop, harg⟩ | ⟨hd, hop⟩ := decode_cases w
  · refine ⟨fun j hj => ?_, fun why h => by simp [hd] at h⟩
    obtain rfl : i = j := by simpa [hd] using hj
    cases i <;>
      simp [rowMatches_formatN, rowMatches_formatD, hop, harg, Instr.opcode, Instr.operand, Instr.mnemonic]
  · refine ⟨fun i h => by simp [hd] at h, fun _ _ => ?_⟩
    obtain h | h | h := hop <;> simp [rowMatches_formatN, rowMatches_formatD, h, harg]
  · refine ⟨fun i h => by simp [hd] at h, fun _ _ => ?_⟩
    simp [rowMatches_formatN, rowMatches_formatD, op_ne_of_reserved hop]

end Sys2Proof.Machine
end

section
/-! PROOFS. The assembler (30_encoding.md R85 to R88), and that it reads back what a listing writes (R89): numbers, then the
tokens of a line, then one-line programs. -/

namespace Sys2Proof.Machine

/-! ## Assembling one statement -/

theorem assemble_singleton (st : Stmt) :
    assemble [st] = if st.wellFormed then .ok (expand st) else .error (.illFormed st) := by
  simp [assemble]

theorem assemble_of_wellFormed {st : Stmt} (h : st.wellFormed = true) : assemble [st] = .ok (expand st) := by
  rw [assemble_singleton, if_pos h]

theorem assemble_of_not_wellFormed {st : Stmt} (h : st.wellFormed = false) : assemble [st] = .error (.illFormed st) := by
  simp [assemble_singleton, h]

/-- A statement that assembles passes the assembler's checks. -/
theorem wellFormed_of_assemble {st : Stmt} {ws : List CmdWord} (h : assemble [st] = .ok ws) :
    st.wellFormed = true ∧ expand st = ws := by
  rw [assemble_singleton] at h
  split at h
  · exact ⟨‹_›, by simpa using h⟩
  · cases h

/-- A `REP` of a statement that is no `REP` repeats what the statement assembles to (30 R88). -/
theorem assemble_rep {st : Stmt} {ws : List CmdWord} (n : Nat) (hrep : st.isRep = false) (h : assemble [st] = .ok ws) :
    assemble [.rep n st] = .ok (List.replicate n ws).flatten := by
  obtain ⟨hwf, rfl⟩ := wellFormed_of_assemble h
  exact assemble_of_wellFormed (by simp [Stmt.wellFormed, hrep, hwf])

/-- Settles O6: the check of the operand, and the word of the command with it. -/
theorem assemblerChecksOperands : Obligations.AssemblerChecksOperands := by
  have hoperand {n : Nat} (h : n ≤ 255) : (BitVec.ofNat 8 n).setWidth 12 = BitVec.ofNat 12 n :=
    BitVec.eq_of_toNat_eq (by simp; omega)
  refine ⟨fun n h => ?pix, fun n h => ?byte, fun n h => ⟨?pixOut, ?byteOut⟩⟩
  case pix =>
    rw [assemble_of_wellFormed (by simpa [Stmt.wellFormed] using h), expand, encode, hoperand h]
  case byte =>
    rw [assemble_of_wellFormed (by simpa [Stmt.wellFormed] using h), expand, encode, hoperand h]
  case pixOut => exact assemble_of_not_wellFormed (by simpa [Stmt.wellFormed] using h)
  case byteOut => exact assemble_of_not_wellFormed (by simpa [Stmt.wellFormed] using h)

theorem assemble_pix_toNat (v : Byte) : assemble [.pix v.toNat] = .ok [encode (.pix v)] := by
  rw [assemble_of_wellFormed (by simp [Stmt.wellFormed]; omega), expand, BitVec.ofNat_toNat, BitVec.setWidth_eq]

theorem assemble_byte_toNat (b : Byte) : assemble [.byte b.toNat] = .ok [encode (.byte b)] := by
  rw [assemble_of_wellFormed (by simp [Stmt.wellFormed]; omega), expand, BitVec.ofNat_toNat, BitVec.setWidth_eq]

theorem assemble_word_toNat (w : CmdWord) : assemble [.word w.toNat] = .ok [w] := by
  rw [assemble_of_wellFormed (by simp [Stmt.wellFormed]; omega), expand, BitVec.ofNat_toNat, BitVec.setWidth_eq]

/-! ## Numbers -/

/-- A hexadecimal digit is written as a letter or numeral, and `digitValue` reads it back. -/
theorem digitChar_spec {d : Nat} (h : d < 16) : (digitChar d).isAlphanum = true ∧ digitValue 16 (digitChar d) = some d := by
  revert d
  decide

theorem digitValue_of_isDigit {c : Char} (h : c.isDigit = true) : digitValue 10 c = some (c.toNat - '0'.toNat) := by
  obtain ⟨hlo, hhi⟩ := Char.isDigit_iff_toNat.mp h
  have hrange : '0' ≤ c ∧ c ≤ '9' := ⟨hlo, hhi⟩
  have hlt : c.toNat - '0'.toNat < 10 := by
    have : '9'.toNat = '0'.toNat + 9 := rfl
    omega
  simp only [digitValue, if_pos hrange, Option.filter_some, hlt, decide_true, if_true]

theorem digitsFrom_of_isDigit {ds : List Char} (h : ∀ c ∈ ds, c.isDigit = true) (acc : Nat) :
    digitsFrom 10 acc ds = some (Nat.ofDigitChars 10 ds acc) := by
  induction ds generalizing acc with
  | nil => rfl
  | cons c cs ih =>
    obtain ⟨hc, hcs⟩ := List.forall_mem_cons.mp h
    rw [digitsFrom, digitValue_of_isDigit hc, Option.bind_some, ih hcs, Nat.ofDigitChars_cons, Nat.mul_comm]

theorem digits_of_ne_nil {ds : List Char} (h : ds ≠ []) (base : Nat) : digits base ds = digitsFrom base 0 ds := by
  cases ds with
  | nil => exact absurd rfl h
  | cons c cs => rfl

/-- Digits without a letter are a decimal number. -/
theorem number_of_isDigit {ds : List Char} (h : ∀ c ∈ ds, c.isDigit = true) : number ds = digits 10 ds := by
  unfold number
  split
  · exact absurd (h 'x' (by simp)) (by decide)
  · exact absurd (h 'b' (by simp)) (by decide)
  · rfl

/-- The assembler reads a number in decimal back. -/
theorem number_toDigits (n : Nat) : number (Nat.toDigits 10 n) = some n := by
  have hdigit : ∀ c ∈ Nat.toDigits 10 n, c.isDigit = true := fun _ => Nat.isDigit_of_mem_toDigits (by decide) (by decide)
  rw [number_of_isDigit hdigit, digits_of_ne_nil Nat.toDigits_ne_nil, digitsFrom_of_isDigit hdigit,
    Nat.ofDigitChars_ten_toDigits]

/-- The assembler reads a word in three hexadecimal digits back. -/
theorem number_hex3 (w : CmdWord) : number ("0x".toList ++ hex3 w) = some w.toNat := by
  have hw : w.toNat < 4096 := w.isLt
  obtain ⟨-, hhigh⟩ := digitChar_spec (d := w.toNat / 256) (by omega)
  obtain ⟨-, hmid⟩ := digitChar_spec (d := w.toNat / 16 % 16) (by omega)
  obtain ⟨-, hlow⟩ := digitChar_spec (d := w.toNat % 16) (by omega)
  have hread : number ("0x".toList ++ hex3 w) = digitsFrom 16 0 (hex3 w) := rfl
  rw [hread, hex3]
  simp only [digitsFrom, hhigh, hmid, hlow, Option.bind_some, Option.some.injEq]
  omega

theorem isAlphanum_of_mem_toDigits {n : Nat} {c : Char} (h : c ∈ Nat.toDigits 10 n) : c.isAlphanum = true := by
  simp [Char.isAlphanum, Nat.isDigit_of_mem_toDigits (by decide) (by decide) h]

theorem isAlphanum_of_mem_hex3 {w : CmdWord} {c : Char} (h : c ∈ hex3 w) : c.isAlphanum = true := by
  have hw : w.toNat < 4096 := w.isLt
  have hdigit {d : Nat} (hd : d < 16) : (digitChar d).isAlphanum = true := (digitChar_spec hd).1
  simp only [hex3, List.mem_cons, List.not_mem_nil, or_false] at h
  obtain rfl | rfl | rfl := h <;> exact hdigit (by omega)

/-! ## The tokens of a line -/

/-- A word of a text: letters and numerals, at least one. The assembler takes it as one token (`tokens_word`). -/
def IsWord (t : List Char) : Prop := t ≠ [] ∧ ∀ c ∈ t, c.isAlphanum = true

/-- No letter or numeral separates, ends or comments anything. -/
theorem ne_of_isAlphanum {c d : Char} (hc : c.isAlphanum = true) (hd : d.isAlphanum = false) : c ≠ d := by
  rintro rfl
  simp [hc] at hd

theorem IsWord.not_mem {t : List Char} (ht : IsWord t) {c : Char} (hc : c.isAlphanum = false) : c ∉ t := by
  obtain ⟨-, hword⟩ := ht
  exact fun h => ne_of_isAlphanum (hword c h) hc rfl

theorem isBlank_of_isAlphanum {c : Char} (h : c.isAlphanum = true) : isBlank c = false := by
  simp [isBlank, ne_of_isAlphanum h]

/-- The first token of a line that begins with a word is that word, up to the blank after it or the end of the line. -/
theorem tokens_word_append {t rest : List Char} (ht : IsWord t) (hrest : ∀ c ∈ rest.head?, isBlank c = true) :
    tokens (t ++ rest) = t :: tokens rest := by
  obtain ⟨hne, hword⟩ := ht
  induction t with
  | nil => exact absurd rfl hne
  | cons c cs ih =>
    obtain ⟨hc, hcs⟩ := List.forall_mem_cons.mp hword
    have hblank : isBlank c = false := isBlank_of_isAlphanum hc
    have hcomma : c ≠ ',' := ne_of_isAlphanum hc (by decide)
    cases cs with
    | nil =>
      cases rest with
      | nil => simp [tokens, hblank, hcomma]
      | cons d ds =>
        have hd : isBlank d = true := hrest d rfl
        simp [tokens, hblank, hcomma, hd]
    | cons d ds =>
      have hd : d.isAlphanum = true := hcs d (by simp)
      have hdblank : isBlank d = false := isBlank_of_isAlphanum hd
      have hdcomma : d ≠ ',' := ne_of_isAlphanum hd (by decide)
      have htail : tokens (d :: (ds ++ rest)) = (d :: ds) :: tokens rest := ih (by simp) hcs
      rw [List.cons_append, List.cons_append, tokens]
      simp [hblank, hcomma, hdblank, hdcomma, htail]

theorem tokens_word {t : List Char} (ht : IsWord t) : tokens t = [t] := by
  simpa [tokens] using tokens_word_append (rest := []) ht (by simp)

theorem tokens_two_words {t u : List Char} (ht : IsWord t) (hu : IsWord u) : tokens (t ++ ' ' :: u) = [t, u] := by
  have hspace : tokens (' ' :: u) = tokens u := by simp [tokens, isBlank]
  rw [tokens_word_append ht (by simp [isBlank]), hspace, tokens_word hu]

/-! ## Programs of one line -/

theorem splitAt_of_not_mem {sep : Char} {l : List Char} (h : sep ∉ l) : splitAt sep l = [l] := by
  induction l with
  | nil => rfl
  | cons c cs ih =>
    rw [List.mem_cons, not_or] at h
    obtain ⟨hc, hcs⟩ := h
    simp [splitAt, Ne.symm hc, ih hcs]

/-- A text of one line without a comment assembles to what its one statement does. -/
theorem assembleText_of_line {line : List Char} {st : Stmt} (hline : '\n' ∉ line) (hcomment : ';' ∉ line)
    (hst : parseTokens (tokens line) = some st) : assembleText line = assemble [st] := by
  have hcode : line.takeWhile (· ≠ ';') = line :=
    List.takeWhile_eq_self_iff.mpr fun c hc => by simpa using ne_of_mem_of_not_mem hc hcomment
  have hne : tokens line ≠ [] := fun h => by simp [h, parseTokens, parseSimple] at hst
  have hparse : parseLine line = .ok (some st) := by
    rw [parseLine, hcode]
    split
    · exact absurd ‹_› hne
    · simp [hst]
  simp [assembleText, splitAt_of_not_mem hline, parseLines, hparse]

/-- A line that is one word. -/
theorem assembleText_word {m : List Char} {st : Stmt} (hm : IsWord m) (hst : parseSimple [m] = some st) :
    assembleText m = assemble [st] :=
  assembleText_of_line (hm.not_mem (by decide)) (hm.not_mem (by decide)) (by rw [tokens_word hm]; exact hst)

/-- A line that is a mnemonic and its operand. -/
theorem assembleText_two_words {m x : List Char} {st : Stmt} (hm : IsWord m) (hx : IsWord x)
    (hst : parseSimple [m, x] = some st) : assembleText (m ++ ' ' :: x) = assemble [st] := by
  have hnot {c : Char} (hc : c.isAlphanum = false) (hspace : c ≠ ' ') : c ∉ m ++ ' ' :: x := by
    simp [hm.not_mem hc, hx.not_mem hc, hspace]
  exact assembleText_of_line (hnot (by decide) (by decide)) (hnot (by decide) (by decide))
    (by rw [tokens_two_words hm hx]; exact hst)

/-- Settles O5: `REP` by what its statement assembles to, nesting by the assembler's check, the text by its one statement. -/
theorem repExpandsToCopies : Obligations.RepExpandsToCopies := by
  refine ⟨fun n st ws => assemble_rep n, fun n m st => assemble_of_not_wellFormed rfl, ?text⟩
  case text =>
    have hparse : parseTokens (tokens "REP 64, BRT".toList) = some (.rep 64 .brt) := by decide
    have hbrt : assemble [.brt] = .ok [0x1FF#12] := by decide
    rw [assembleText_of_line (by decide) (by decide) hparse, assemble_rep 64 rfl hbrt, List.flatten_replicate_singleton]

/-! ## What a listing writes -/

theorem isWord_toDigits (n : Nat) : IsWord (Nat.toDigits 10 n) :=
  ⟨Nat.toDigits_ne_nil, fun _ => isAlphanum_of_mem_toDigits⟩

theorem isWord_hex3 (w : CmdWord) : IsWord ("0x".toList ++ hex3 w) := by
  obtain ⟨-, hprefix⟩ : IsWord "0x".toList := by simp [IsWord]
  exact ⟨by simp, fun c hc => (List.mem_append.mp hc).elim (hprefix c) isAlphanum_of_mem_hex3⟩

theorem parseSimple_pix {x : List Char} {n : Nat} (h : number x = some n) :
    parseSimple ["PIX".toList, x] = some (.pix n) := by
  rw [parseSimple, h]
  rfl

theorem parseSimple_byte {x : List Char} {n : Nat} (h : number x = some n) :
    parseSimple ["BYTE".toList, x] = some (.byte n) := by
  rw [parseSimple, h]
  rfl

theorem parseSimple_word {x : List Char} {n : Nat} (h : number x = some n) :
    parseSimple ["WORD".toList, x] = some (.word n) := by
  rw [parseSimple, h]
  rfl

/-- The line a listing shows for a command assembles to the word of the command (30 R86). -/
theorem assembleText_statementText_of_command {w : CmdWord} {i : Instr} (h : decode w = .command i) :
    assembleText (statementText w) = .ok [encode i] := by
  rw [statementText, h]
  cases i with
  | nop => exact assembleText_word (m := "NOP".toList) (by simp [IsWord]) rfl
  | eoi => exact assembleText_word (m := "EOI".toList) (by simp [IsWord]) rfl
  | eob => exact assembleText_word (m := "EOB".toList) (by simp [IsWord]) rfl
  | pix v =>
    calc assembleText ("PIX".toList ++ ' ' :: Nat.toDigits 10 v.toNat)
      _ = assemble [.pix v.toNat] :=
        assembleText_two_words (by simp [IsWord]) (isWord_toDigits _) (parseSimple_pix (number_toDigits _))
      _ = .ok [encode (.pix v)] := assemble_pix_toNat v
  | byte b =>
    calc assembleText ("BYTE".toList ++ ' ' :: Nat.toDigits 10 b.toNat)
      _ = assemble [.byte b.toNat] :=
        assembleText_two_words (by simp [IsWord]) (isWord_toDigits _) (parseSimple_byte (number_toDigits _))
      _ = .ok [encode (.byte b)] := assemble_byte_toNat b

/-- The line a listing shows for an illegal word assembles to that word (30 R87). -/
theorem assembleText_statementText_of_illegal {w : CmdWord} {why : Reject} (h : decode w = .illegal why) :
    assembleText (statementText w) = .ok [w] := by
  rw [statementText, h]
  calc assembleText ("WORD".toList ++ ' ' :: ("0x".toList ++ hex3 w))
    _ = assemble [.word w.toNat] :=
      assembleText_two_words (by simp [IsWord]) (isWord_hex3 w) (parseSimple_word (number_hex3 w))
    _ = .ok [w] := assemble_word_toNat w

/-- Settles O7: a command's line gives the encoding of the command, which is the word; an illegal word's line names the word. -/
theorem listingAssemblesBack : Obligations.ListingAssemblesBack := by
  intro w
  cases hd : decode w with
  | command i => rw [assembleText_statementText_of_command hd, ← (decodeEncodeAgree i w).mp hd]
  | illegal why => exact assembleText_statementText_of_illegal hd

end Sys2Proof.Machine
end

section
/-! PROOFS. The BitPacker commands, case by case (40_bitpacker.md R101 to R103, R116), and what the invariants make of them: no
counter wraps (R109), the padded last byte (R105), the length of a packed image (R107). -/

namespace Sys2Proof.Machine

/-! ## The arithmetic of the BitPacker -/

/-- Only intensity 0 is dark (40 R101). -/
theorem toNat_packBit (v : Byte) : (packBit v).toNat = if v = 0#8 then 1 else 0 := by
  by_cases h : v = 0#8
  · subst h
    rfl
  · have hbright : bright v = true := decide_eq_true (by bv_omega)
    simp [packBit, hbright, h]

theorem packBit_of_ne_zero {v : Byte} (h : v ≠ 0#8) : packBit v = 0#1 :=
  BitVec.eq_of_toNat_eq (by rw [toNat_packBit, if_neg h]; rfl)

/-- One more bit doubles `ACC`, modulo 256 (40 R108). -/
theorem shiftIn_eq_ofNat (acc : Byte) (bit : BitVec 1) : shiftIn acc bit = BitVec.ofNat 8 (2 * acc.toNat + bit.toNat) := by
  have hdisjoint : acc <<< 1 &&& bit.setWidth 8 = 0#8 := by
    ext i hi
    cases i <;> simp
  rw [shiftIn, ← BitVec.add_eq_or_of_and_eq_zero _ _ hdisjoint]
  bv_omega

/-- The padded byte is `ACC * 2^(8-NB)`, modulo 256 (40 R105). -/
theorem padByte_eq_ofNat (acc : Byte) (nb : BitVec 4) : padByte acc nb = BitVec.ofNat 8 (acc.toNat * 2 ^ (8 - nb.toNat)) :=
  BitVec.eq_of_toNat_eq (by simp [padByte, Nat.shiftLeft_eq])

/-- Padding loses nothing of an `ACC` that holds its `NB` bits only (40 R105). -/
theorem toNat_padByte {acc : Byte} {nb : BitVec 4} (hacc : acc.toNat < 2 ^ nb.toNat) (hnb : nb.toNat ≤ 8) :
    (padByte acc nb).toNat = acc.toNat * 2 ^ (8 - nb.toNat) := by
  have hlt : acc.toNat * 2 ^ (8 - nb.toNat) < 2 ^ 8 := by
    calc acc.toNat * 2 ^ (8 - nb.toNat) < 2 ^ nb.toNat * 2 ^ (8 - nb.toNat) :=
          Nat.mul_lt_mul_of_pos_right hacc (Nat.two_pow_pos _)
      _ = 2 ^ 8 := by rw [← Nat.pow_add, Nat.add_sub_cancel' hnb]
  rw [padByte_eq_ofNat, BitVec.toNat_ofNat, Nat.mod_eq_of_lt hlt]

/-! ## What is left of an image at its `EOI` -/

/-- The event `EOI` puts on `PK` before its `END`: the padded byte of a partial byte, or none (40 R103). -/
def State.partialByte (s : State) : List Event :=
  if s.nb = 0#4 then [] else [.byte (padByte s.acc s.nb)]

theorem State.flushPartial_pk (s : State) : s.flushPartial.pk = s.pk ++ s.partialByte := by
  unfold State.partialByte
  split
  case isTrue h => rw [State.flushPartial_of_whole h, List.append_nil]
  case isFalse h => rw [State.flushPartial_of_partial h, State.handOver_eq]

theorem State.endImage_pk (s : State) : s.endImage.pk = s.pk ++ s.partialByte ++ [.endMark] := by
  rw [State.endImage_eq, s.flushPartial_pk]

/-- `EOI` past its check leaves the block flushed (10 R42). -/
theorem State.endImage_flushed {s : State} (hok : s.fault = false) : s.endImage.Flushed := by
  have hlatch : s.endImage.fault = s.fault := congrArg (·.1) s.endImage_latch
  rw [State.endImage_eq] at hlatch ⊢
  exact ⟨s.flushPartial_nb, rfl, rfl, hlatch.trans hok⟩

/-! ## A command that raises nothing -/

/-- A `PIX` that raises nothing takes its pixel (40 R102). -/
theorem exec_pix_of_no_fault {v : Byte} {s t : State} (hok : s.fault = false) (h : exec (.pix v) s = .next t)
    (ht : t.fault = false) : s.pcnt.toNat ≠ s.cfgW.toNat * s.cfgH.toNat ∧ t = s.takePixel v := by
  rw [exec_of_ok hok] at h
  cases h
  by_cases hfull : s.pcnt.toNat = s.cfgW.toNat * s.cfgH.toNat
  · simp [effect_pix_of_full hfull] at ht
  · exact ⟨hfull, effect_pix_of_room hfull v⟩

/-- An `EOI` that raises nothing ends a full image (40 R103). -/
theorem exec_eoi_of_no_fault {s t : State} (hok : s.fault = false) (h : exec .eoi s = .next t) (ht : t.fault = false) :
    s.pcnt.toNat = s.cfgW.toNat * s.cfgH.toNat ∧ t = s.endImage := by
  rw [exec_of_ok hok] at h
  cases h
  by_cases hfull : s.pcnt.toNat = s.cfgW.toNat * s.cfgH.toNat
  · exact ⟨hfull, effect_eoi_of_full hfull⟩
  · simp [effect_eoi_of_short hfull] at ht

theorem exec_eoi_of_full {s : State} (hok : s.fault = false) (hfull : s.pcnt.toNat = s.cfgW.toNat * s.cfgH.toNat) :
    exec .eoi s = .next s.endImage := by
  rw [exec_of_ok hok, effect_eoi_of_full hfull]

/-- `PIX` counts its pixel, whether or not it completes a byte (40 R102). -/
@[simp] theorem State.takePixel_pcnt (v : Byte) (s : State) : (s.takePixel v).pcnt = s.pcnt + 1#32 := by
  by_cases h8 : s.nb + 1#4 = 8#4
  · rw [State.takePixel_of_eighth h8, State.handOver_eq]; rfl
  · rw [State.takePixel_of_short h8]; rfl

/-- Pixels of one packing bit have one effect (40 R101, 30 R79). -/
theorem State.takePixel_congr {v u : Byte} (h : packBit v = packBit u) (s : State) : s.takePixel v = s.takePixel u := by
  rw [State.takePixel_eq, State.takePixel_eq, State.shiftPixel, State.shiftPixel, h]

/-! ## The commands -/

/-- Settles O20: the latch on a full image, else `State.takePixel` without and with the hand-over of a byte. -/
theorem pixTakesAPixel : Obligations.PixTakesAPixel := by
  refine fun v s => ⟨rfl, fun hf => exec_of_fault hf _, fun hok hfull => ?overrun, fun b hb hok hroom => ?taken⟩
  case overrun => rw [exec_of_ok hok, effect_pix_of_full hfull]; rfl
  case taken =>
    have hbit : shiftIn s.acc (packBit v) = b := by rw [shiftIn_eq_ofNat, toNat_packBit, hb]
    rw [exec_of_ok hok, effect_pix_of_room hroom]
    refine ⟨fun hshort => ?_, fun h8 => ?_⟩
    · rw [State.takePixel_of_short hshort, State.shiftPixel, hbit]
    · rw [State.takePixel_of_eighth h8, State.handOver_eq, State.rleByte_eq, hbit]; rfl

/-- Settles O21: the latch on an image that is not full, else `State.endImage` without and with a partial byte. -/
theorem eoiEndsAnImage : Obligations.EoiEndsAnImage := by
  refine ⟨rfl, fun s => ⟨fun hf => exec_of_fault hf _, fun hok hshort => ?underrun, fun hok hfull hnb => ?whole,
    fun b hb hok hfull hnb => ?padded⟩⟩
  case underrun => rw [exec_of_ok hok, effect_eoi_of_short hshort]; rfl
  case whole =>
    rw [exec_eoi_of_full hok hfull, State.endImage_eq, State.flushPartial_of_whole hnb, State.rleFlush_eq]
  case padded =>
    have hbyte : padByte s.acc s.nb = b := by rw [padByte_eq_ofNat, hb]
    rw [exec_eoi_of_full hok hfull, State.endImage_eq, State.flushPartial_of_partial hnb, State.handOver_eq,
      State.rleFlush_eq, State.rleByte_eq, hbyte]
    simp [State.heldPair]

/-- Settles O26: the bit is the only thing of a pixel that `PIX` reads. -/
theorem onlyZeroIsDark : Obligations.OnlyZeroIsDark := by
  refine ⟨by decide, fun v hv => packBit_of_ne_zero hv, fun v u s hv hu hroom => ?_⟩
  have hbit : packBit v = packBit u := by rw [packBit_of_ne_zero hv, packBit_of_ne_zero hu]
  cases hf : s.fault with
  | true => rw [exec_of_fault hf, exec_of_fault hf]
  | false =>
    rw [exec_of_ok hf, exec_of_ok hf, effect_pix_of_room hroom, effect_pix_of_room hroom, State.takePixel_congr hbit]

/-- Settles O29: the image of area 0 is full at `PCNT = 0`, and a flushed block holds neither a partial byte nor a run. -/
theorem emptyImage : Obligations.EmptyImage := by
  intro s hzero
  have hfull (hpcnt : s.pcnt = 0#32) : s.pcnt.toNat = s.cfgW.toNat * s.cfgH.toNat := by
    obtain h | h := hzero <;> simp [hpcnt, h]
  refine ⟨fun v hok hpcnt => ?pix, fun hflushed => ?eoi⟩
  case pix => rw [exec_of_ok hok, effect_pix_of_full (hfull hpcnt)]; rfl
  case eoi =>
    obtain ⟨hnb, hpcnt, hrcnt, hok⟩ := id hflushed
    refine ⟨s.endImage, exec_eoi_of_full hok (hfull hpcnt), ?pk, ?out, State.endImage_flushed hok⟩
    case pk => simp [State.endImage_pk, State.partialByte, hnb]
    case out => simp [State.endImage_eq, State.flushPartial_of_whole hnb, State.heldPair, hrcnt]

/-! ## Under the invariants -/

/-- The area of the largest image (40 R110). -/
theorem State.area_le (s : State) : s.area ≤ 4294836225 :=
  Nat.mul_le_mul (Nat.le_of_lt_succ s.cfgW.isLt) (Nat.le_of_lt_succ s.cfgH.isLt)

/-- Settles O39: a pixel that is taken finds room below the area, a run that is extended is below 255, and `FIDX` has no
bound. -/
theorem onlyFidxWraps : Obligations.OnlyFidxWraps := by
  refine ⟨fun v s t hinv hok h ht => ?pix, fun b s hopen hb hlt => ?run, fun s t hok h => ?eob⟩
  case pix =>
    obtain ⟨hpacker, -, -⟩ := s.inv_iff_units.mp hinv
    obtain ⟨hroom, rfl⟩ := exec_pix_of_no_fault hok h ht
    have hlt : s.pcnt.toNat < s.area := lt_of_le_of_ne hinv.pcntLe hroom
    have hpcnt : (s.takePixel v).pcnt.toNat = s.pcnt.toNat + 1 := by
      rw [State.takePixel_pcnt, toNat_pcnt_succ hlt s.area_lt]
    have harea := s.area_le
    have hnb := hpacker.nb_le
    exact ⟨hpcnt, by omega, hpacker.toNat_nb_succ, by omega⟩
  case run =>
    have hext : s.runAfter b = s.rcnt + 1#8 := if_pos ⟨hopen, hb, hlt⟩
    rw [State.rleByte_eq, hext, BitVec.toNat_add, BitVec.toNat_ofNat]
    omega
  case eob =>
    rw [exec_of_ok hok] at h
    cases h
    rw [effect_eob, State.closeBuffer_eq, BitVec.toNat_add]
    rfl

/-- Settles O46: the byte is `padByte`, and `ACC` below `2^NB` leaves it below 256. -/
theorem paddingOfTheLastByte : Obligations.PaddingOfTheLastByte := by
  intro s t hinv hok hfull hnb h
  obtain ⟨hpacker, -, -⟩ := s.inv_iff_units.mp hinv
  rw [exec_eoi_of_full hok hfull] at h
  cases h
  have hbyte := toNat_padByte hinv.accLt (hpacker.nb_le.trans (by decide))
  refine ⟨padByte s.acc s.nb, ?pk, hbyte, ?low⟩
  case pk => simp [State.endImage_pk, State.partialByte, hnb]
  case low => rw [hbyte, Nat.mul_mod_left]

/-- Under the invariants a partial byte is left exactly when the pixels are no whole number of bytes (10 R41). -/
theorem State.Inv.nb_eq_zero_iff {s : State} (h : s.Inv) : s.nb = 0#4 ↔ s.pcnt.toNat % 8 = 0 := by
  rw [← h.nbMod, ← BitVec.toNat_inj]
  rfl

/-- Settles O47: `PK` holds the whole bytes already, and the partial byte is the one more. -/
theorem lengthOfAPackedImage : Obligations.LengthOfAPackedImage := by
  intro s t hinv hok h ht
  obtain ⟨hfull, rfl⟩ := exec_eoi_of_no_fault hok h ht
  have hpk := hinv.pkBytes
  have hpartial := hinv.nb_eq_zero_iff
  rw [hfull] at hpk hpartial
  refine ⟨hpk, s.partialByte, s.endImage_pk, ?_⟩
  unfold State.partialByte
  by_cases hnb : s.nb = 0#4
  · have hmod := hpartial.mp hnb
    rw [if_pos hnb, if_pos hmod, List.append_nil]
    exact ⟨rfl, by omega⟩
  · have hmod := mt hpartial.mpr hnb
    rw [if_neg hnb, if_neg hmod, bytesSinceEnd_append_byte]
    exact ⟨rfl, by omega⟩

end Sys2Proof.Machine
end

section
/-! PROOFS. `RleEncode` (41_rle_encoder.md R134) run by run, and the RLE unit against it: what stands on `OUT` once the bytes that
are still to come have been given and the run is closed (R120, R121) does not depend on how many of them were given already. -/

namespace Sys2Proof.Machine

/-! ## RleEncode, run by run -/

/-- The inner loop counts a run to its end or to its cap. -/
theorem runExtra_replicate_append {v : Byte} {k room : Nat} {B : List Byte} (hroom : k ≤ room)
    (hend : k = room ∨ B.head? ≠ some v) : runExtra v room (List.replicate k v ++ B) = k := by
  induction k generalizing room with
  | zero =>
    cases room with
    | zero => rfl
    | succ room =>
      cases B with
      | nil => rfl
      | cons b B =>
        have hb : b ≠ v := by simpa using hend
        simp [runExtra, hb]
  | succ k ih =>
    cases room with
    | zero => omega
    | succ room =>
      have hrun : runExtra v room (List.replicate k v ++ B) = k := ih (by omega) (hend.imp_left Nat.succ.inj)
      simp [runExtra, List.replicate_succ, hrun]

/-- From the number of bytes on, the bound on the number of runs is no bound. -/
theorem rleLoop_eq_of_length_le {n m : Nat} {B : List Byte} (hn : B.length ≤ n) (hm : B.length ≤ m) :
    rleLoop n B = rleLoop m B := by
  induction n generalizing m B with
  | zero =>
    obtain rfl : B = [] := List.length_eq_zero_iff.mp (Nat.le_zero.mp hn)
    cases m <;> rfl
  | succ n ih =>
    cases B with
    | nil => cases m <;> rfl
    | cons b B =>
      cases m with
      | zero => simp at hm
      | succ m =>
        have hrest : (B.drop (runExtra b 254 B)).length ≤ B.length := by simp
        rw [List.length_cons] at hn hm
        rw [rleLoop, rleLoop, ih (by omega : _ ≤ n) (by omega : _ ≤ m)]

theorem rleEncode_nil : rleEncode [] = [] := rfl

/-- `RleEncode` takes one run and goes on behind it (41 R134). -/
theorem rleEncode_cons (b : Byte) (B : List Byte) :
    rleEncode (b :: B) =
      BitVec.ofNat 8 (runExtra b 254 B + 1) :: b :: rleEncode (B.drop (runExtra b 254 B)) := by
  have hrest : rleLoop B.length (B.drop (runExtra b 254 B)) = rleEncode (B.drop (runExtra b 254 B)) :=
    rleLoop_eq_of_length_le (by simp) le_rfl
  rw [← hrest]
  rfl

/-- A run that ends, or is capped, is one pair (41 R134). -/
theorem rleEncode_replicate_append {v : Byte} {c : Nat} {B : List Byte} (hpos : 1 ≤ c) (hle : c ≤ 255)
    (hend : c = 255 ∨ B.head? ≠ some v) :
    rleEncode (List.replicate c v ++ B) = BitVec.ofNat 8 c :: v :: rleEncode B := by
  obtain ⟨k, rfl⟩ : ∃ k, c = k + 1 := ⟨c - 1, by omega⟩
  have hrun : runExtra v 254 (List.replicate k v ++ B) = k :=
    runExtra_replicate_append (by omega) (hend.imp_left Nat.succ.inj)
  rw [List.replicate_succ, List.cons_append, rleEncode_cons, hrun, List.drop_left' List.length_replicate]

/-! ## The RLE unit -/

/-- The bytes of the open run: given to the unit, not yet on `OUT`. -/
def State.openBytes (s : State) : List Byte := List.replicate s.rcnt.toNat s.rval

/-- What stands on `OUT` once the bytes `B` have been given to the RLE unit and the run is closed. -/
def State.outAfter (s : State) (B : List Byte) : List Event := s.out ++ (rleEncode (s.openBytes ++ B)).map .byte

/-- With no run open, the bytes to come are encoded by themselves. -/
theorem State.outAfter_of_closed {s : State} (h : s.rcnt = 0#8) (B : List Byte) :
    s.outAfter B = s.out ++ (rleEncode B).map .byte := by
  simp [State.outAfter, State.openBytes, h]

/-- The pair of the open run stands before what is encoded from a byte that ends it. -/
theorem State.outAfter_of_run_end {s : State} (hopen : s.rcnt ≠ 0#8) {B : List Byte}
    (hend : s.rcnt.toNat = 255 ∨ B.head? ≠ some s.rval) :
    s.outAfter B = s.out ++ [.byte s.rcnt, .byte s.rval] ++ (rleEncode B).map .byte := by
  have hpos : s.rcnt.toNat ≠ 0 := fun h => hopen (BitVec.eq_of_toNat_eq h)
  have hlt := s.rcnt.isLt
  rw [State.outAfter, State.openBytes, rleEncode_replicate_append (by omega) (by omega) hend]
  simp

/-- With no byte to come, `RleFlush` completes the stream (41 R121). -/
theorem State.outAfter_nil (s : State) : s.outAfter [] = s.out ++ s.heldPair := by
  unfold State.heldPair
  split
  case isTrue h => rw [State.outAfter_of_closed h]; rfl
  case isFalse h => rw [State.outAfter_of_run_end h (.inr (by simp)), rleEncode_nil, List.map_nil, List.append_nil]

/-- `RleByte` is one byte of the bytes to come (41 R120): it opens the run, extends it, or ends it and opens the next. -/
theorem State.outAfter_rleByte (b : Byte) (s : State) (B : List Byte) :
    (s.rleByte b).outAfter B = s.outAfter (b :: B) := by
  by_cases hclosed : s.rcnt = 0#8
  · rw [State.outAfter_of_closed hclosed, State.outAfter, State.openBytes, State.rleByte_eq]
    simp [State.runAfter, State.closedPair, hclosed]
  by_cases hext : b = s.rval ∧ s.rcnt < 255#8
  · obtain ⟨rfl, hlt⟩ := hext
    have hrcnt : (s.rcnt + 1#8).toNat = s.rcnt.toNat + 1 := by bv_omega
    rw [State.outAfter, State.outAfter, State.openBytes, State.openBytes, State.rleByte_eq]
    simp [State.runAfter, State.closedPair, hclosed, hlt, hrcnt, List.replicate_succ']
  · have hend : s.rcnt.toNat = 255 ∨ (b :: B).head? ≠ some s.rval := by
      by_cases hb : b = s.rval
      · have hcap : ¬ s.rcnt < 255#8 := fun h => hext ⟨hb, h⟩
        exact .inl (by bv_omega)
      · exact .inr (by simpa using hb)
    rw [State.outAfter_of_run_end hclosed hend, State.outAfter, State.openBytes, State.rleByte_eq]
    simp [State.runAfter, State.closedPair, hclosed, hext]

end Sys2Proof.Machine
end

section
/-! PROOFS. A list of command words, run from a block that is offered them, is the effects of its commands one after the other
(20_memory.md R52, R63). -/

namespace Sys2Proof.Machine

/-- The same state with other host actions still to come. -/
def State.withInput (as : List HostAction) (s : State) : State := { s with input := as }

/-- The effect of a list of commands, one after the other; a block that has faulted discards them (60 R189). -/
def runCommands (is : List Instr) (s : State) : State :=
  is.foldl (fun s i => s.unlessFaulted (effect i)) s

/-! ## No command reads the actions still to come -/

section
variable (as : List HostAction) (s : State)

theorem State.handOver_withInput (b : Byte) : (s.withInput as).handOver b = (s.handOver b).withInput as := by
  rw [State.handOver_eq, State.handOver_eq]; rfl

theorem State.takePixel_withInput (v : Byte) : (s.withInput as).takePixel v = (s.takePixel v).withInput as := by
  by_cases h8 : s.nb + 1#4 = 8#4
  · rw [State.takePixel_of_eighth h8, State.takePixel_of_eighth (s := s.withInput as) h8, ← State.handOver_withInput]
    rfl
  · rw [State.takePixel_of_short h8, State.takePixel_of_short (s := s.withInput as) h8]
    rfl

theorem State.flushPartial_withInput : (s.withInput as).flushPartial = s.flushPartial.withInput as := by
  by_cases hnb : s.nb = 0#4
  · rw [State.flushPartial_of_whole hnb, State.flushPartial_of_whole (s := s.withInput as) hnb]
  · rw [State.flushPartial_of_partial hnb, State.flushPartial_of_partial (s := s.withInput as) hnb,
      ← State.handOver_withInput]
    rfl

theorem effect_withInput (i : Instr) : effect i (s.withInput as) = (effect i s).withInput as := by
  have himage : (s.withInput as).imageFull = s.imageFull := rfl
  cases i with
  | nop => rfl
  | pix v =>
    rw [effect_pix, effect_pix, himage]
    split
    · rfl
    · exact s.takePixel_withInput as v
  | eoi =>
    rw [effect_eoi, effect_eoi, himage]
    split
    · rw [State.endImage_eq, State.endImage_eq, State.flushPartial_withInput]; rfl
    · rfl
  | byte b => rw [effect_byte, effect_byte, State.rleByte_eq, State.rleByte_eq]; rfl
  | eob => rw [effect_eob, effect_eob, State.closeBuffer_eq, State.closeBuffer_eq]; rfl

theorem State.unlessFaulted_effect_withInput (i : Instr) :
    (s.withInput as).unlessFaulted (effect i) = (s.unlessFaulted (effect i)).withInput as := by
  cases hf : s.fault with
  | true => rw [State.unlessFaulted_of_fault hf, State.unlessFaulted_of_fault (s := s.withInput as) hf]
  | false => rw [State.unlessFaulted_of_ok hf, State.unlessFaulted_of_ok (s := s.withInput as) hf, effect_withInput]

end

/-! ## A run of commands -/

theorem runCommands_append (is js : List Instr) (s : State) :
    runCommands (is ++ js) s = runCommands js (runCommands is s) :=
  List.foldl_append

theorem runCommands_singleton_of_ok {s : State} (h : s.fault = false) (i : Instr) : runCommands [i] s = effect i s :=
  State.unlessFaulted_of_ok h _

/-- The word of a command has that command's effect (30 R86). -/
theorem wordEffect_encode (i : Instr) : wordEffect (encode i) = effect i := by
  funext s
  rw [wordEffect, (decodeEncodeAgree i _).mpr rfl]

/-- A step on the word of a command. -/
theorem step_issue_encode {s : State} {i : Instr} {as : List HostAction} (h : s.input = .issue (encode i) :: as) :
    step s = .next ((s.unlessFaulted (effect i)).withInput as) := by
  rw [step_issue_eq h, wordEffect_encode, ← State.unlessFaulted_effect_withInput]
  rfl

/-- As many steps as commands are offered run these commands and leave the actions behind them. -/
theorem run_issues {is : List Instr} {s : State} {rest : List HostAction} (h : s.input = issues is ++ rest) :
    Host.Core.run core is.length s = .next (runCommands is (s.withInput rest)) := by
  induction is generalizing s with
  | nil =>
    obtain rfl : s.input = rest := h
    rfl
  | cons i is ih =>
    rw [List.length_cons, run_succ core _ _ _ (step_issue_encode h), ih rfl, runCommands, runCommands, List.foldl_cons,
      State.unlessFaulted_effect_withInput]
    rfl

end Sys2Proof.Machine
end

section
/-! PROOFS. The BitPacker against `Pack` (40_bitpacker.md R104, R112, R113): what stands on `PK` and on `OUT` once the pixels that
are still to come have been taken and the image ends does not depend on how many of them were taken already. -/

namespace Sys2Proof.Machine

/-! ## Pack, byte by byte -/

/-- A sequence of packing bits cut into bytes, the last one padded with zeros (40 R112). -/
def packBits (bits : List Nat) : List Byte := (List.range ((bits.length + 7) / 8)).map (packedByte bits)

theorem packBits_nil : packBits [] = [] := rfl

/-- A packed byte is made of its eight bits (40 R112). -/
theorem packedByte_congr {l m : List Nat} {k j : Nat} (h : ∀ i < 8, l.getD (8 * k + i) 0 = m.getD (8 * j + i) 0) :
    packedByte l k = packedByte m j := by
  have h0 : l.getD (8 * k) 0 = m.getD (8 * j) 0 := h 0 (by decide)
  simp only [packedByte, h0, h 1 (by decide), h 2 (by decide), h 3 (by decide), h 4 (by decide), h 5 (by decide),
    h 6 (by decide), h 7 (by decide)]

theorem packedByte_append_zero {l : List Nat} (hl : l.length = 8) (rest : List Nat) :
    packedByte (l ++ rest) 0 = packedByte l 0 :=
  packedByte_congr fun _ _ => List.getD_append _ _ _ _ (by omega)

theorem packedByte_append_succ {l : List Nat} (hl : l.length = 8) (rest : List Nat) (k : Nat) :
    packedByte (l ++ rest) (k + 1) = packedByte rest k := by
  refine packedByte_congr fun i _ => ?_
  rw [List.getD_append_right _ _ _ _ (by omega), hl]
  congr 1
  omega

/-- Eight bits are one byte, and packing goes on behind them. -/
theorem packBits_append {l : List Nat} (hl : l.length = 8) (rest : List Nat) :
    packBits (l ++ rest) = packedByte l 0 :: packBits rest := by
  have hlen : ((l ++ rest).length + 7) / 8 = (rest.length + 7) / 8 + 1 := by
    rw [List.length_append]
    omega
  rw [packBits, hlen, List.range_succ_eq_map, List.map_cons, packedByte_append_zero hl, List.map_map, packBits]
  congr 2
  funext k
  exact packedByte_append_succ hl rest k

/-- Eight bits or fewer, but not none, are one byte. -/
theorem packBits_of_length_le {l : List Nat} (hpos : l.length ≠ 0) (hle : l.length ≤ 8) : packBits l = [packedByte l 0] := by
  have hlen : (l.length + 7) / 8 = 1 := by omega
  rw [packBits, hlen]
  rfl

/-- Zeros at the end are the padding that a byte's missing bits stand for. -/
theorem packedByte_append_zeros (l : List Nat) (n k : Nat) :
    packedByte (l ++ List.replicate n 0) k = packedByte l k := by
  refine packedByte_congr fun i _ => ?_
  rcases Nat.lt_or_ge (8 * k + i) l.length with hi | hi
  · rw [List.getD_append _ _ _ _ hi]
  · rw [List.getD_append_right _ _ _ _ hi, List.getD_eq_default _ _ hi]
    rw [List.getD_eq_getElem?_getD, List.getElem?_replicate]
    split <;> rfl

theorem length_scanBits (W H : Nat) (g : Nat → Nat → Int) : (scanBits W H g).length = W * H := by
  simp [scanBits, Nat.mul_comm]

theorem pack_eq_packBits (W H : Nat) (g : Nat → Nat → Int) : pack W H g = packBits (scanBits W H g) := by
  rw [pack, packBits, length_scanBits, packedLength]
  exact List.map_congr_left fun k _ => packedByte_append_zeros _ _ k

/-! ## The scan of a grid -/

/-- Row after row, the indices of a grid are those of the sequence (20 R55). -/
theorem map_range_mul {α : Type} (W H : Nat) (f : Nat → α) :
    (List.range (W * H)).map f = (List.range H).flatMap fun y => (List.range W).map fun x => f (y * W + x) := by
  induction H with
  | zero => simp
  | succ H ih =>
    rw [Nat.mul_succ, List.range_add, List.map_append, ih, List.range_succ, List.flatMap_append, List.map_map]
    simp [Function.comp_def, Nat.mul_comm W H]

/-- The packing bit of a pixel agrees with that of the grid's intensity where both are bright or both are dark. -/
theorem darkBit_eq_packBit {p : Int} {v : Byte} (h : v ≠ 0#8 ↔ 0 < p) : darkBit p = (packBit v).toNat := by
  have hdark : p ≤ 0 ↔ v = 0#8 := by rw [← not_lt, ← h, not_not]
  simp only [darkBit, toNat_packBit, hdark]

/-- Pixels in scan order have the scan bits of the grid they show (40 R112). -/
theorem map_packBit_eq_scanBits {W H : Nat} {g : Nat → Nat → Int} {vs : List Byte} (hlen : vs.length = W * H)
    (hshow : ∀ x y, x < W → y < H → (vs.getD (y * W + x) 0#8 ≠ 0#8 ↔ 0 < g x y)) :
    vs.map (fun v => (packBit v).toNat) = scanBits W H g := by
  have hindex : vs.map (fun v => (packBit v).toNat) =
      (List.range (W * H)).map fun i => (packBit (vs.getD i 0#8)).toNat := by
    rw [← hlen]
    refine List.ext_getElem (by simp) fun i hi _ => ?_
    have hi' : i < vs.length := by simpa using hi
    simp [hi']
  rw [hindex, map_range_mul, scanBits]
  refine List.flatMap_congr fun y hy => List.map_congr_left fun x hx => ?_
  exact (darkBit_eq_packBit (hshow x y (List.mem_range.mp hx) (List.mem_range.mp hy))).symm

/-! ## The bits ACC holds -/

/-- The lowest `n` bits of `ACC`, the bit of the first pixel first (40 R102). -/
def accBits (acc : Byte) (n : Nat) : List Nat := (List.range n).map fun i => acc.toNat / 2 ^ (n - 1 - i) % 2

@[simp] theorem length_accBits (acc : Byte) (n : Nat) : (accBits acc n).length = n := by
  simp [accBits]

/-- One more pixel's bit stands behind those of the pixels before it (40 R102). -/
theorem accBits_shiftIn {n : Nat} (hn : n ≤ 7) (acc : Byte) (bit : BitVec 1) :
    accBits (shiftIn acc bit) (n + 1) = accBits acc n ++ [bit.toNat] := by
  have hbit := bit.isLt
  have hacc : (shiftIn acc bit).toNat = (2 * acc.toNat + bit.toNat) % 256 := by
    rw [shiftIn_eq_ofNat, BitVec.toNat_ofNat]
  have hhigh {i : Nat} (hi : i < n) :
      (shiftIn acc bit).toNat / 2 ^ (n + 1 - 1 - i) % 2 = acc.toNat / 2 ^ (n - 1 - i) % 2 := by
    obtain ⟨k, hk⟩ : ∃ k, n - 1 - i = k := ⟨_, rfl⟩
    have hk' : n + 1 - 1 - i = k + 1 := by omega
    have hle : k ≤ 6 := by omega
    rw [hk, hk', hacc]
    interval_cases k <;> omega
  have hlow : (shiftIn acc bit).toNat % 2 = bit.toNat := by omega
  rw [accBits, List.range_succ, List.map_append, List.map_congr_left fun i hi => hhigh (List.mem_range.mp hi), accBits]
  simp [hlow]

/-- The eight bits of a byte, packed, are the byte (30 R73). -/
theorem packedByte_accBits_eight (acc : Byte) : packedByte (accBits acc 8) 0 = acc := by
  revert acc
  decide +kernel

/-- Padding is shifting in zeros until `ACC` holds eight bits (40 R105). -/
theorem packedByte_accBits {n k : Nat} (h : n + k = 8) (acc : Byte) : packedByte (accBits acc n) 0 = acc <<< k := by
  induction k generalizing n acc with
  | zero =>
    obtain rfl : n = 8 := h
    rw [packedByte_accBits_eight, BitVec.shiftLeft_zero]
  | succ k ih =>
    have hzero : shiftIn acc 0#1 = acc <<< 1 := by simp [shiftIn]
    calc packedByte (accBits acc n) 0
      _ = packedByte (accBits acc n ++ [0]) 0 := (packedByte_append_zeros _ 1 0).symm
      _ = packedByte (accBits (shiftIn acc 0#1) (n + 1)) 0 := by rw [accBits_shiftIn (by omega)]; rfl
      _ = acc <<< (k + 1) := by rw [ih (by omega), hzero, ← BitVec.shiftLeft_add, Nat.add_comm]

/-! ## What the two ports will carry -/

/-- The packing bits of the image that are taken but not yet on `PK`. -/
def State.heldBits (s : State) : List Nat := accBits s.acc s.nb.toNat

/-- The bytes that leave the BitPacker once the packing bits `bits` have been taken and the image ends. -/
def State.bytesAfter (s : State) (bits : List Nat) : List Byte := packBits (s.heldBits ++ bits)

/-- What stands on `PK` and on `OUT` once the packing bits `bits` have been taken and the image ends, without its `END`. -/
def State.streamsAfter (s : State) (bits : List Nat) : Outputs where
  pk := s.pk ++ (s.bytesAfter bits).map .byte
  out := s.outAfter (s.bytesAfter bits)

/-- With no bit held, the bits to come are packed by themselves. -/
theorem State.streamsAfter_of_whole {s : State} (h : s.nb = 0#4) (bits : List Nat) :
    s.streamsAfter bits = { pk := s.pk ++ (packBits bits).map .byte, out := s.outAfter (packBits bits) } := by
  simp [State.streamsAfter, State.bytesAfter, State.heldBits, accBits, h]

/-- A byte handed over is the first of the bytes to come (40 R102, R103). -/
theorem State.streamsAfter_handOver (b : Byte) (s : State) (bits : List Nat) :
    (s.handOver b).streamsAfter bits =
      { pk := s.pk ++ (b :: packBits bits).map .byte, out := s.outAfter (b :: packBits bits) } := by
  have hpk : (s.handOver b).pk = s.pk ++ [.byte b] := by rw [State.handOver_eq]
  have hout : (s.handOver b).outAfter (packBits bits) = s.outAfter (b :: packBits bits) := by
    rw [← State.outAfter_rleByte, State.handOver_eq, State.rleByte_eq]; rfl
  have hnb : (s.handOver b).nb = 0#4 := by rw [State.handOver_eq]
  rw [State.streamsAfter_of_whole hnb, hpk, hout]
  simp

/-- `PIX` takes one bit of the bits to come (40 R102). -/
theorem State.streamsAfter_takePixel {s : State} (hnb : s.nb.toNat ≤ 7) (v : Byte) (bits : List Nat) :
    (s.takePixel v).streamsAfter bits = s.streamsAfter ((packBit v).toNat :: bits) := by
  have hnb' : (s.nb + 1#4).toNat = s.nb.toNat + 1 := by bv_omega
  have hheld : (s.shiftPixel v).heldBits = s.heldBits ++ [(packBit v).toNat] := by
    rw [State.heldBits, State.shiftPixel_nb, hnb']
    exact accBits_shiftIn hnb _ _
  have hstreams : s.streamsAfter ((packBit v).toNat :: bits) = (s.shiftPixel v).streamsAfter bits := by
    rw [State.streamsAfter, State.streamsAfter, State.bytesAfter, State.bytesAfter, hheld, List.append_assoc]
    rfl
  rw [hstreams]
  by_cases h8 : s.nb + 1#4 = 8#4
  · have hacc : (s.shiftPixel v).heldBits = accBits (shiftIn s.acc (packBit v)) 8 := by
      rw [State.heldBits, State.shiftPixel_nb, h8]; rfl
    have hbyte : packedByte (s.shiftPixel v).heldBits 0 = shiftIn s.acc (packBit v) := by
      rw [hacc, packedByte_accBits (k := 0) rfl, BitVec.shiftLeft_zero]
    rw [State.takePixel_of_eighth h8, State.streamsAfter_handOver, State.streamsAfter, State.bytesAfter,
      packBits_append (by rw [hacc, length_accBits]), hbyte]
  · rw [State.takePixel_of_short h8]

/-- The padded byte is the last of the bytes to come (40 R103). -/
theorem State.streamsAfter_flushPartial {s : State} (hnb : s.nb.toNat ≤ 7) :
    s.flushPartial.streamsAfter [] = s.streamsAfter [] := by
  by_cases h0 : s.nb = 0#4
  · rw [State.flushPartial_of_whole h0]
  · have hpos : s.nb.toNat ≠ 0 := fun h => h0 (BitVec.eq_of_toNat_eq h)
    have hlen : s.heldBits.length = s.nb.toNat := length_accBits _ _
    have hbytes : s.bytesAfter [] = [padByte s.acc s.nb] := by
      rw [State.bytesAfter, List.append_nil, packBits_of_length_le (by omega) (by omega), State.heldBits,
        packedByte_accBits (k := 8 - s.nb.toNat) (by omega), padByte]
    rw [State.flushPartial_of_partial h0, State.streamsAfter_handOver, packBits_nil, State.streamsAfter, hbytes]

/-- `EOI` past its check completes both streams (40 R103). -/
theorem State.endImage_streams {s : State} (hnb : s.nb.toNat ≤ 7) :
    s.endImage.pk = (s.streamsAfter []).pk ++ [.endMark] ∧ s.endImage.out = (s.streamsAfter []).out ++ [.endMark] := by
  rw [← State.streamsAfter_flushPartial hnb, State.streamsAfter_of_whole s.flushPartial_nb, packBits_nil,
    State.outAfter_nil, State.endImage_eq]
  exact ⟨by simp, rfl⟩

/-- `EOI` past its check counts the buffer (40 R103). -/
theorem State.endImage_fidx (s : State) : s.endImage.fidx = s.fidx + 1#32 := by
  rw [State.endImage_eq]
  by_cases h0 : s.nb = 0#4
  · rw [State.flushPartial_of_whole h0]
  · rw [State.flushPartial_of_partial h0, State.handOver_eq]

/-! ## Pixels in a row -/

/-- `t` is `s` after the pixels `vs` have been taken: they are counted, the streams to come are those that `s` had to come with
these pixels first, and the rest of the state is as it was. -/
structure TakesPixels (vs : List Byte) (s t : State) : Prop where
  surroundings : t.surroundings = s.surroundings
  latch : t.latch = s.latch
  fidx : t.fidx = s.fidx
  nb : t.nb.toNat = (s.nb.toNat + vs.length) % 8
  pcnt : t.pcnt.toNat = s.pcnt.toNat + vs.length
  streams : ∀ bits, t.streamsAfter bits = s.streamsAfter (vs.map (fun v => (packBit v).toNat) ++ bits)

section
variable {vs : List Byte} {s t : State} (h : TakesPixels vs s t)
include h

theorem TakesPixels.fault : t.fault = s.fault := congrArg (·.1) h.latch

theorem TakesPixels.area : t.area = s.area := congrArg (fun x => x.1.toNat * x.2.1.toNat) h.surroundings

theorem TakesPixels.input : t.input = s.input := congrArg (·.2.2.2.1) h.surroundings

end

theorem TakesPixels.refl {s : State} (hnb : s.nb.toNat ≤ 7) : TakesPixels [] s s :=
  ⟨rfl, rfl, rfl, (Nat.mod_eq_of_lt (by simpa using Nat.lt_succ_of_le hnb)).symm, rfl, fun _ => rfl⟩

theorem TakesPixels.trans {vs ws : List Byte} {s t u : State} (hst : TakesPixels vs s t) (htu : TakesPixels ws t u) :
    TakesPixels (vs ++ ws) s u where
  surroundings := htu.surroundings.trans hst.surroundings
  latch := htu.latch.trans hst.latch
  fidx := htu.fidx.trans hst.fidx
  nb := by rw [htu.nb, hst.nb, Nat.mod_add_mod, List.length_append, Nat.add_assoc]
  pcnt := by rw [htu.pcnt, hst.pcnt, List.length_append, Nat.add_assoc]
  streams bits := by rw [htu.streams, hst.streams, List.map_append, List.append_assoc]

theorem State.takePixel_takesPixels {s : State} (hnb : s.nb.toNat ≤ 7) (hroom : s.pcnt.toNat < s.area) (v : Byte) :
    TakesPixels [v] s (s.takePixel v) where
  surroundings := s.takePixel_surroundings v
  latch := s.takePixel_latch v
  fidx := by
    by_cases h8 : s.nb + 1#4 = 8#4
    · rw [State.takePixel_of_eighth h8, State.handOver_eq]; rfl
    · rw [State.takePixel_of_short h8]; rfl
  nb := by
    have hnb' : (s.nb + 1#4).toNat = s.nb.toNat + 1 := by bv_omega
    rw [List.length_singleton, ← hnb']
    by_cases h8 : s.nb + 1#4 = 8#4
    · rw [State.takePixel_of_eighth h8, State.handOver_eq, h8]; rfl
    · have hlt : (s.nb + 1#4).toNat < 8 := by bv_omega
      rw [State.takePixel_of_short h8, Nat.mod_eq_of_lt hlt]; rfl
  pcnt := by rw [State.takePixel_pcnt, toNat_pcnt_succ hroom s.area_lt]; rfl
  streams bits := State.streamsAfter_takePixel hnb v bits

/-- `PIX` commands that the image has room for take their pixels (40 R102). -/
theorem runCommands_pix_takesPixels {vs : List Byte} {s : State} (hok : s.fault = false) (hnb : s.nb.toNat ≤ 7)
    (hroom : s.pcnt.toNat + vs.length ≤ s.area) : TakesPixels vs s (runCommands (vs.map .pix) s) := by
  induction vs generalizing s with
  | nil => exact .refl hnb
  | cons v vs ih =>
    rw [List.length_cons] at hroom
    have hfirst : TakesPixels [v] s (s.takePixel v) := State.takePixel_takesPixels hnb (by omega) v
    have hstep : runCommands [.pix v] s = s.takePixel v := by
      rw [runCommands_singleton_of_ok hok, effect_pix_of_room (by unfold State.area at hroom; omega)]
    have hrest : TakesPixels vs (s.takePixel v) (runCommands (vs.map .pix) (s.takePixel v)) := by
      refine ih (hfirst.fault.trans hok) ?nb ?room
      case nb => rw [hfirst.nb]; omega
      case room => rw [hfirst.pcnt, hfirst.area, List.length_singleton]; omega
    have hrun : runCommands ((v :: vs).map .pix) s = runCommands (vs.map .pix) (s.takePixel v) :=
      hstep ▸ runCommands_append [.pix v] _ s
    rw [hrun]
    exact hfirst.trans hrest

/-- Settles O45: with `NB = 0` before and after, the eight bits are the one byte that `PK` is given. -/
theorem eightPixelsMakeAByte : Obligations.EightPixelsMakeAByte := by
  intro s v0 v1 v2 v3 v4 v5 v6 v7 rest hok hnb hroom hin
  have htakes : TakesPixels [v0, v1, v2, v3, v4, v5, v6, v7] (s.withInput rest)
      (runCommands ([v0, v1, v2, v3, v4, v5, v6, v7].map .pix) (s.withInput rest)) :=
    runCommands_pix_takesPixels hok (hnb ▸ by decide) hroom
  refine ⟨_, run_issues (is := [v0, v1, v2, v3, v4, v5, v6, v7].map .pix) hin, ?_⟩
  generalize runCommands _ _ = t at htakes
  have hnb' : t.nb = 0#4 := BitVec.eq_of_toNat_eq (by rw [htakes.nb]; simp [State.withInput, hnb])
  have hpk := congrArg Outputs.pk (htakes.streams [])
  rw [State.streamsAfter_of_whole hnb', State.streamsAfter_of_whole (s := s.withInput rest) hnb, packBits_nil,
    packBits_of_length_le (by simp) (by simp)] at hpk
  exact ⟨htakes.input, hnb', by simpa [packedByte, State.withInput] using hpk⟩

/-- After the pixels of a grid, taken by a block that held no bit and no run, the streams to come are `Pack` of the grid and
`RleEncode` of that (40 R113). -/
theorem TakesPixels.streamsAfter_of_grid {W H : Nat} {g : Nat → Nat → Int} {vs : List Byte} {s t : State}
    (h : TakesPixels vs s t) (hnb : s.nb = 0#4) (hrcnt : s.rcnt = 0#8) (hlen : vs.length = W * H)
    (hshow : ∀ x y, x < W → y < H → (vs.getD (y * W + x) 0#8 ≠ 0#8 ↔ 0 < g x y)) :
    t.streamsAfter [] =
      { pk := s.pk ++ (pack W H g).map .byte, out := s.out ++ (rleEncode (pack W H g)).map .byte } := by
  rw [h.streams, List.append_nil, map_packBit_eq_scanBits hlen hshow, State.streamsAfter_of_whole hnb,
    State.outAfter_of_closed hrcnt, pack_eq_packBits]

/-- Settles O48: the flushed block has only the image's own bits to come, and `EOI` finds all of them taken. -/
theorem imageAgreesWithPack : Obligations.ImageAgreesWithPack := by
  rintro W H g vs s rest hflushed rfl rfl hlen hshow hin
  obtain ⟨hnb, hpcnt, hrcnt, hok⟩ := hflushed
  have hroom : s.pcnt.toNat + vs.length ≤ s.area := by simp [hpcnt, hlen, State.area]
  have htakes : TakesPixels vs (s.withInput rest) (runCommands (vs.map .pix) (s.withInput rest)) :=
    runCommands_pix_takesPixels hok (hnb ▸ by decide) hroom
  have hrun := run_issues hin
  rw [runCommands_append, List.length_append, List.length_map, hlen] at hrun
  generalize runCommands _ (s.withInput rest) = t at htakes hrun
  have hok' : t.fault = false := htakes.fault.trans hok
  have hfull : t.pcnt.toNat = t.area := by
    rw [htakes.pcnt, htakes.area, hlen]
    simp [State.withInput, State.area, hpcnt]
  have hnb' : t.nb.toNat ≤ 7 := by rw [htakes.nb]; omega
  obtain ⟨hpk, hout⟩ := State.endImage_streams hnb'
  rw [htakes.streamsAfter_of_grid hnb hrcnt hlen hshow] at hpk hout
  rw [runCommands_singleton_of_ok hok', effect_eoi_of_full hfull] at hrun
  have hinput : t.endImage.input = t.input := congrArg (·.2.2.2.1) t.endImage_surroundings
  exact ⟨t.endImage, hrun, hinput.trans htakes.input, hpk, hout, State.endImage_flushed hok',
    by rw [State.endImage_fidx, htakes.fidx]; rfl⟩

end Sys2Proof.Machine
end

section
/-! PROOFS. The RLE unit's procedures and the commands `BYTE` and `EOB`, case by case (41_rle_encoder.md R120 to R123). -/

namespace Sys2Proof.Machine

/-! ## The procedures -/

/-- With no run open `RleByte` opens one (41 R120). -/
theorem State.rleByte_of_closed {s : State} (h : s.rcnt = 0#8) (b : Byte) :
    s.rleByte b = { s with rval := b, rcnt := 1#8 } := by
  simp [State.rleByte_eq, State.runAfter, State.closedPair, h]

/-- A byte of the open run's value extends a run below the cap (41 R120). -/
theorem State.rleByte_of_extends {s : State} (hopen : s.rcnt ≠ 0#8) (hlt : s.rcnt < 255#8) :
    s.rleByte s.rval = { s with rcnt := s.rcnt + 1#8 } := by
  simp [State.rleByte_eq, State.runAfter, State.closedPair, hopen, hlt]

/-- A byte that cannot extend the open run closes it and opens the next (41 R120). -/
theorem State.rleByte_of_run_end {b : Byte} {s : State} (hopen : s.rcnt ≠ 0#8) (hend : ¬ (b = s.rval ∧ s.rcnt < 255#8)) :
    s.rleByte b = { s with rval := b, rcnt := 1#8, out := s.out ++ [.byte s.rcnt, .byte s.rval] } := by
  simp [State.rleByte_eq, State.runAfter, State.closedPair, hopen, hend]

/-- With no run open no pair is held (41 R121). -/
theorem State.heldPair_of_closed {s : State} (h : s.rcnt = 0#8) : s.heldPair = [] := if_pos h

/-- An open run is held as its count and its value (41 R121). -/
theorem State.heldPair_of_open {s : State} (h : s.rcnt ≠ 0#8) : s.heldPair = [.byte s.rcnt, .byte s.rval] := if_neg h

/-- Settles O24: the three branches of `RleByte`, and the length of the run it leaves. -/
theorem rleByteProcedure : Obligations.RleByteProcedure := by
  refine fun b s => ⟨fun hclosed => State.rleByte_of_closed hclosed b, fun hopen hb hlt => ?extend,
    fun hopen hend => State.rleByte_of_run_end hopen ?cap, ?opened⟩
  case extend => exact hb ▸ State.rleByte_of_extends hopen hlt
  case cap =>
    rintro ⟨hb, hlt⟩
    obtain hne | hcap := hend
    · exact hne hb
    · exact absurd hcap (Nat.ne_of_lt hlt)
  case opened =>
    have hrun : (s.rleByte b).rcnt ≠ 0#8 := by
      rw [State.rleByte_eq]
      exact s.runAfter_ne_zero b
    exact Nat.pos_of_ne_zero fun h => hrun (BitVec.eq_of_toNat_eq h)

/-- Settles O25: the pair `RleFlush` emits is the held one, if any. -/
theorem rleFlushProcedure : Obligations.RleFlushProcedure := by
  refine fun s => ⟨fun hclosed => ?_, fun hopen => ?_⟩
  · rw [State.rleFlush_eq, State.heldPair_of_closed hclosed, List.append_nil, ← hclosed]
  · rw [State.rleFlush_eq, State.heldPair_of_open hopen]

/-! ## The commands -/

/-- Settles O22: the effect of `BYTE` is `State.rleByte`. -/
theorem byteFeedsTheEncoder : Obligations.ByteFeedsTheEncoder := fun _ _ =>
  ⟨rfl, fun hf => exec_of_fault hf _, fun hok => exec_of_ok hok _⟩

/-- Settles O23: the effect of `EOB` is `State.closeBuffer`, with or without a held pair. -/
theorem eobClosesTheBuffer : Obligations.EobClosesTheBuffer := by
  refine ⟨rfl, fun s => ⟨fun hf => exec_of_fault hf _, fun hok hclosed => ?_, fun hok hopen => ?_⟩⟩
  · rw [exec_of_ok hok, effect_eob, State.closeBuffer_eq, State.heldPair_of_closed hclosed, List.append_nil, ← hclosed]
  · rw [exec_of_ok hok, effect_eob, State.closeBuffer_eq, State.heldPair_of_open hopen, List.append_assoc]
    rfl

end Sys2Proof.Machine
end

section
/-! PROOFS. The RLE unit against `RleEncode` (41_rle_encoder.md R134, R136, R138): a buffer given byte by byte and closed by
`EOB`. -/

namespace Sys2Proof.Machine

/-- Everything the bytes of a buffer and `EOB` do to a block that has not faulted. -/
theorem runCommands_buffer {s : State} (hok : s.fault = false) (B : List Byte) :
    runCommands (B.map .byte ++ [.eob]) s =
      { s with
        rval := B.getLastD s.rval, rcnt := 0#8, fidx := s.fidx + 1#32, out := s.outAfter B ++ [.endMark] } := by
  induction B generalizing s with
  | nil =>
    rw [List.map_nil, List.nil_append, runCommands_singleton_of_ok hok, effect_eob, State.closeBuffer_eq,
      State.outAfter_nil]
    rfl
  | cons b B ih =>
    have hfirst : runCommands [.byte b] s = s.rleByte b := runCommands_singleton_of_ok hok _
    have hok' : (s.rleByte b).fault = false := by
      rw [State.rleByte_eq]
      exact hok
    calc runCommands ((b :: B).map .byte ++ [.eob]) s
        = runCommands (B.map .byte ++ [.eob]) (s.rleByte b) := hfirst ▸ runCommands_append [.byte b] _ s
      _ = _ := by
        rw [ih hok', State.outAfter_rleByte, State.rleByte_eq, List.getLastD_cons]

/-- With no run open before the buffer, `OUT` is given `RleEncode` of it and `END`, and no run is open behind it (41 R136). -/
theorem runCommands_buffer_of_closed {s : State} (hok : s.fault = false) (hclosed : s.rcnt = 0#8) (B : List Byte) :
    runCommands (B.map .byte ++ [.eob]) s =
      { s with
        rval := B.getLastD s.rval
        fidx := s.fidx + 1#32
        out := s.out ++ (rleEncode B).map .byte ++ [.endMark] } := by
  rw [runCommands_buffer hok, State.outAfter_of_closed hclosed, ← hclosed]

/-- Settles O49: the run is that of the buffer's commands. -/
theorem bufferAgreesWithRleEncode : Obligations.BufferAgreesWithRleEncode := by
  intro B s rest hclosed hok hin
  have hrun := run_issues hin
  rw [runCommands_buffer_of_closed (s := s.withInput rest) hok hclosed, List.length_append, List.length_map] at hrun
  exact ⟨_, hrun, rfl, rfl, rfl, hclosed, hok⟩

/-- Settles O50: the first `EOB` leaves no run open, so the second buffer is encoded by itself as the first was. -/
theorem equalBuffersEqualOutputs : Obligations.EqualBuffersEqualOutputs := by
  intro B s hclosed hok hin
  have hlen : (B.map Instr.byte ++ [Instr.eob] ++ (B.map Instr.byte ++ [Instr.eob])).length = 2 * B.length + 2 := by
    simp
    omega
  rw [List.append_assoc, ← List.append_nil (issues _)] at hin
  have hrun := run_issues hin
  rw [hlen, runCommands_append, runCommands_buffer_of_closed (s := s.withInput []) hok hclosed,
    runCommands_buffer_of_closed (by exact hok) (by exact hclosed)] at hrun
  exact ⟨_, (rleEncode B).map .byte ++ [.endMark], hrun, by simp [State.withInput]⟩

end Sys2Proof.Machine
end

section
/-! PROOFS. `RleEncode` as a function on buffers (41_rle_encoder.md R131 to R134, R137), by induction over the greedy runs of a
buffer. -/

namespace Sys2Proof.Machine

/-! ## A buffer is its greedy runs -/

/-- A buffer starts with at most `room` copies of `v`, and behind fewer of them no further copy follows. -/
theorem exists_leading_run (v : Byte) (room : Nat) (B : List Byte) :
    ∃ k C, k ≤ room ∧ B = List.replicate k v ++ C ∧ (k = room ∨ C.head? ≠ some v) := by
  induction room generalizing B with
  | zero => exact ⟨0, B, le_rfl, rfl, .inl rfl⟩
  | succ room ih =>
    by_cases hhead : B.head? = some v
    · obtain ⟨B, rfl⟩ := List.head?_eq_some_iff.mp hhead
      obtain ⟨k, C, hk, rfl, hend⟩ := ih B
      exact ⟨k + 1, C, by omega, rfl, hend.imp_left (congrArg (· + 1))⟩
    · exact ⟨0, B, Nat.zero_le _, rfl, .inr hhead⟩

/-- Induction over the runs `RleEncode` takes: each of 1 to 255 copies, and either capped or ended by another byte
(41 R134). -/
theorem greedyRuns_induction {motive : List Byte → Prop} (nil : motive [])
    (run : ∀ (v : Byte) (c : Nat) (B : List Byte), 1 ≤ c → c ≤ 255 → (c = 255 ∨ B.head? ≠ some v) → motive B →
      motive (List.replicate c v ++ B)) (B : List Byte) : motive B := by
  match B with
  | [] => exact nil
  | b :: B =>
    obtain ⟨k, C, hk, hB, hend⟩ := exists_leading_run b 254 B
    have hlen : C.length < (b :: B).length := by simp [hB]
    have hrun := run b (k + 1) C (by omega) (by omega) (hend.imp_left (congrArg (· + 1)))
      (greedyRuns_induction nil run C)
    rwa [List.replicate_succ, List.cons_append, ← hB] at hrun
termination_by B.length

/-- The count byte of a run is the run's length (41 R133). -/
theorem toNat_ofNat_count {c : Nat} (hle : c ≤ 255) : (BitVec.ofNat 8 c).toNat = c :=
  Nat.mod_eq_of_lt (by omega)

/-- The first value byte of an encoding is the buffer's first byte. -/
theorem rleEncode_getElem?_one (B : List Byte) : (rleEncode B)[1]? = B.head? := by
  cases B with
  | nil => rfl
  | cons b B => rw [rleEncode_cons]; rfl

/-! ## Round trip, size, counts -/

/-- Settles O51: the pair of a run decodes to the run. -/
theorem rleRoundTrip : Obligations.RleRoundTrip := by
  intro B
  induction B using greedyRuns_induction with
  | nil => rfl
  | run v c B hpos hle hend ih =>
    rw [rleEncode_replicate_append hpos hle hend, rleDecode, ih, toNat_ofNat_count hle, Option.map_some]

/-- Settles O53: a run of 1 to 255 bytes becomes two bytes. -/
theorem sizeOfAnEncoding : Obligations.SizeOfAnEncoding := by
  have hsize (B : List Byte) : (rleEncode B).length % 2 = 0 ∧
      2 * ((B.length + 254) / 255) ≤ (rleEncode B).length ∧ (rleEncode B).length ≤ 2 * B.length := by
    induction B using greedyRuns_induction with
    | nil => decide
    | run v c B hpos hle hend ih =>
      rw [rleEncode_replicate_append hpos hle hend]
      simp only [List.length_cons, List.length_append, List.length_replicate]
      omega
  intro B
  obtain ⟨heven, hmin, hmax⟩ := hsize B
  refine ⟨heven, hmin, hmax, fun hnil => ?_, fun hnil => hnil ▸ rleEncode_nil⟩
  rw [hnil, List.length_nil] at hmin
  exact List.length_eq_zero_iff.mp (by omega)

/-- No count of an encoding is 0 (30 R74). -/
theorem countsLegal_rleEncode (B : List Byte) : countsLegal (rleEncode B) = true := by
  induction B using greedyRuns_induction with
  | nil => rfl
  | run v c B hpos hle hend ih =>
    have hcount : BitVec.ofNat 8 c ≠ 0#8 := by bv_omega
    rw [rleEncode_replicate_append hpos hle hend]
    simp [countsLegal, hcount, ih]

/-! ## Maximal runs -/

/-- Two buffers that no run crosses are encoded one after the other (41 R133). -/
theorem rleEncode_append {A C : List Byte} (hborder : ∀ v, A.getLast? = some v → C.head? ≠ some v) :
    rleEncode (A ++ C) = rleEncode A ++ rleEncode C := by
  induction A using greedyRuns_induction with
  | nil => rfl
  | run v c A hpos hle hend ih =>
    have hrest : ∀ u, A.getLast? = some u → C.head? ≠ some u := fun u hu =>
      hborder u (by rw [List.getLast?_append, hu, Option.some_or])
    have hend' : c = 255 ∨ (A ++ C).head? ≠ some v := hend.imp_right fun hA => by
      cases A with
      | nil => exact hborder v (by simp [List.getLast?_replicate, Nat.ne_of_gt hpos])
      | cons a A => exact hA
    rw [List.append_assoc, rleEncode_replicate_append hpos hle hend', rleEncode_replicate_append hpos hle hend, ih hrest]
    rfl

/-- A run of one value is cut at every 255 copies (41 R133). -/
theorem rleEncode_replicate {c : Nat} (hpos : 1 ≤ c) (hle : c ≤ 255) (q : Nat) (v : Byte) :
    rleEncode (List.replicate (255 * q + c) v) =
      (List.replicate q [255#8, v]).flatten ++ [BitVec.ofNat 8 c, v] := by
  induction q with
  | zero =>
    have hone := rleEncode_replicate_append (v := v) (B := []) hpos hle (.inr (by simp))
    simpa [rleEncode_nil] using hone
  | succ q ih =>
    have hcut : 255 * (q + 1) + c = 255 + (255 * q + c) := by omega
    rw [hcut, List.replicate_add, rleEncode_replicate_append (by decide) le_rfl (.inl rfl), ih]
    rfl

/-- Settles O52: no run crosses the borders of a maximal run, which is cut at its cap. -/
theorem runCap : Obligations.RunCap := by
  refine ⟨countsLegal_rleEncode, fun A C v L hL hA hC => ?_⟩
  have hbefore : ∀ u, A.getLast? = some u → (List.replicate L v).head? ≠ some u := fun u hu => by
    have hne : v ≠ u := fun huv => hA (huv ▸ hu)
    simpa [List.head?_replicate, Nat.ne_of_gt hL] using hne
  have hbehind : ∀ u, (A ++ List.replicate L v).getLast? = some u → C.head? ≠ some u := by
    simpa [List.getLast?_append, List.getLast?_replicate, Nat.ne_of_gt hL] using hC
  generalize hq : (L + 254) / 255 - 1 = q
  have hcut : 255 * q + (L - 255 * q) = L := by omega
  have hrun := rleEncode_replicate (c := L - 255 * q) (by omega) (by omega) q v
  rw [hcut] at hrun
  rw [rleEncode_append hbehind, rleEncode_append hbefore, hrun, ← List.append_assoc]

/-! ## Uniqueness -/

/-- The property of neighbours, pair by pair: the value byte of the next pair, if any, is the second byte behind this one
(41 R137). -/
theorem neighboursMaximal_cons (c v : Byte) (E : List Byte) :
    neighboursMaximal (c :: v :: E) = true ↔ (c = 255#8 ∨ E[1]? ≠ some v) ∧ neighboursMaximal E = true := by
  match E with
  | [] => simp [neighboursMaximal]
  | [_] => simp [neighboursMaximal]
  | c' :: v' :: E => simp [neighboursMaximal, or_comm, eq_comm (a := v)]

theorem neighboursMaximal_rleEncode (B : List Byte) : neighboursMaximal (rleEncode B) = true := by
  induction B using greedyRuns_induction with
  | nil => rfl
  | run v c B hpos hle hend ih =>
    rw [rleEncode_replicate_append hpos hle hend, neighboursMaximal_cons, rleEncode_getElem?_one]
    exact ⟨hend.imp_left (congrArg (BitVec.ofNat 8)), ih⟩

/-- A pair sequence with legal counts and maximal neighbours is the encoding of what it decodes to: each of its pairs is a
greedy run (41 R137). -/
theorem eq_rleEncode_of_rleDecode {E B : List Byte} (hdecode : rleDecode E = some B) (hcounts : countsLegal E = true)
    (hmax : neighboursMaximal E = true) : E = rleEncode B := by
  induction E using rleDecode.induct generalizing B with
  | case1 => cases hdecode; rfl
  | case2 => cases hdecode
  | case3 c v E ih =>
    obtain ⟨B, hE, rfl⟩ := Option.map_eq_some_iff.mp hdecode
    obtain ⟨hc, hcounts⟩ : c ≠ 0#8 ∧ countsLegal E = true := by simpa [countsLegal] using hcounts
    obtain ⟨hend, hmax⟩ := (neighboursMaximal_cons c v E).mp hmax
    obtain rfl := ih hE hcounts hmax
    rw [rleEncode_getElem?_one] at hend
    have hpos : 1 ≤ c.toNat := Nat.pos_of_ne_zero fun h => hc (BitVec.eq_of_toNat_eq h)
    rw [rleEncode_replicate_append hpos (Nat.le_of_lt_succ c.isLt) (hend.imp_left (congrArg BitVec.toNat)),
      BitVec.ofNat_toNat, BitVec.setWidth_eq]

/-- Settles O54: the encoding has the three properties, and they determine it. -/
theorem encodingIsUnique : Obligations.EncodingIsUnique := fun B =>
  ⟨neighboursMaximal_rleEncode B, countsLegal_rleEncode B, rleRoundTrip B, fun _ => eq_rleEncode_of_rleDecode⟩

end Sys2Proof.Machine
end

section
/-! PROOFS. The system command `NOP` (42_system.md R150): its word, the words beside it that are illegal, and what it does. -/

namespace Sys2Proof.Machine

/-- The word of a number below 256 has opcode 0 and the number as its operand (30 R71). -/
theorem ofNat_eq_ofFields_zero {n : Nat} (h : n ≤ 255) :
    BitVec.ofNat 12 n = CmdWord.ofFields 0x0#4 (BitVec.ofNat 8 n) := by
  have hword : (BitVec.ofNat 8 n).setWidth 12 = CmdWord.ofFields 0x0#4 (BitVec.ofNat 8 n) :=
    BitVec.setWidth_eq_append (by decide)
  rw [← hword, BitVec.setWidth_ofNat_of_le_of_lt (by decide) (Nat.lt_succ_of_le h)]

/-- With opcode 0, an operand from 1 to 255 makes the word illegal (30 R82). -/
theorem decode_ofNat_nonZeroArg {n : Nat} (hpos : 1 ≤ n) (hle : n ≤ 255) :
    decode (BitVec.ofNat 12 n) = .illegal .nonZeroArg := by
  have harg : BitVec.ofNat 8 n ≠ 0#8 := by bv_omega
  rw [ofNat_eq_ofFields_zero hle]
  exact decode_of_nonZeroArg (.inl (op_ofFields _ _)) ((arg_ofFields _ _).symm ▸ harg)

@[simp] theorem effect_nop (s : State) : effect .nop s = s := rfl

/-- `NOP` leaves the state as it is, whether or not the block has faulted (42 R150, 60 R189). -/
@[simp] theorem exec_nop (s : State) : exec .nop s = .next s := by
  cases hf : s.fault with
  | true => exact exec_of_fault hf _
  | false => rw [exec_of_ok hf, effect_nop]

/-- Settles O19: the word by the encoder, its neighbours by their fields, and `NOP` has no effect. -/
theorem nopLeavesTheState : Obligations.NopLeavesTheState :=
  ⟨rfl, fun _ => decode_ofNat_nonZeroArg, exec_nop⟩

end Sys2Proof.Machine
end

section
/-! PROOFS. The software around the block (43_frame_record_context.md): a record's bytes, where the records stand in the container,
and the payloads read off `OUT`. -/

namespace Sys2Proof.Machine

/-! ## Records -/

/-- A payload that a 16-bit length can count has a record (43 R160). -/
theorem record_of_length_le {P : List Byte} (h : P.length ≤ 65535) :
    record P = some (BitVec.ofNat 8 (P.length % 256) :: BitVec.ofNat 8 (P.length / 256) :: P) := if_pos h

/-- A longer payload has none (43 R161). -/
theorem record_of_length_gt {P : List Byte} (h : 65535 < P.length) : record P = none := if_neg (Nat.not_le_of_gt h)

/-- Only a payload of at most 65535 bytes has a record (43 R161). -/
theorem length_le_of_record {P r : List Byte} (h : record P = some r) : P.length ≤ 65535 := by
  by_contra hgt
  rw [record_of_length_gt (Nat.lt_of_not_le hgt)] at h
  cases h

/-- A record is two bytes longer than its payload (43 R160). -/
theorem length_of_record {P r : List Byte} (h : record P = some r) : r.length = 2 + P.length := by
  rw [record_of_length_le (length_le_of_record h), Option.some.injEq] at h
  rw [← h, List.length_cons, List.length_cons]
  omega

/-- Settles O55: the two length bytes are the length's digits to base 256. -/
theorem recordFormat : Obligations.RecordFormat := by
  refine fun P => ⟨fun hle => ⟨_, _, record_of_length_le hle, ?number, ?low⟩, record_of_length_gt⟩
  case number | low =>
    simp only [BitVec.toNat_ofNat]
    omega

/-- Settles O57: an encoding is at most twice its buffer (41 R131), and `2 * ceil(262136 / 8) = 65534`. -/
theorem capacityBound : Obligations.CapacityBound := by
  intro W H g
  have hpack : (pack W H g).length = (W * H + 7) / 8 := by rw [pack, List.length_map, List.length_range, packedLength]
  obtain ⟨-, -, hmax, -⟩ := sizeOfAnEncoding (pack W H g)
  rw [hpack] at hmax
  exact ⟨hmax, fun harea => ⟨_, record_of_length_le (by omega)⟩⟩

/-! ## Where the records stand -/

theorem totalBytes_append (Ps Qs : List (List Byte)) : totalBytes (Ps ++ Qs) = totalBytes Ps + totalBytes Qs := by
  induction Ps with
  | nil => exact (Nat.zero_add _).symm
  | cons P Ps ih =>
    rw [List.cons_append, totalBytes, totalBytes, ih]
    omega

@[simp] theorem length_offsetsFrom (o : Nat) (Ps : List (List Byte)) : (offsetsFrom o Ps).length = Ps.length := by
  induction Ps generalizing o with
  | nil => rfl
  | cons P Ps ih => rw [offsetsFrom, List.length_cons, ih, List.length_cons]

/-- An entry of the table counts the bytes of the records before it (43 R167). -/
theorem getD_offsetsFrom {Ps : List (List Byte)} {i : Nat} (hi : i < Ps.length) (o : Nat) :
    (offsetsFrom o Ps).getD i 0 = o + totalBytes (Ps.take i) := by
  induction Ps generalizing i o with
  | nil => cases hi
  | cons P Ps ih =>
    cases i with
    | zero => rfl
    | succ i =>
      rw [offsetsFrom, List.getD_cons_succ, ih (Nat.lt_of_succ_lt_succ hi), List.take_succ_cons, totalBytes]
      omega

theorem getD_offsetTable {Ps : List (List Byte)} {i : Nat} (hi : i < Ps.length) :
    (offsetTable Ps).getD i 0 = totalBytes (Ps.take i) := by
  rw [offsetTable, getD_offsetsFrom hi, Nat.zero_add]

/-- The container starts with the first frame's record; behind it stands the container of the other frames (43 R162). -/
theorem container_cons_eq_some {P : List Byte} {Ps : List (List Byte)} {C : List Byte} (h : container (P :: Ps) = some C) :
    ∃ r D, record P = some r ∧ container Ps = some D ∧ C = r ++ D := by
  obtain ⟨r, hr, hrest⟩ := Option.bind_eq_some_iff.mp h
  obtain ⟨D, hD, hC⟩ := Option.map_eq_some_iff.mp hrest
  exact ⟨r, D, hr, hD, hC.symm⟩

/-- The container is the containers of a first part and of the rest, one behind the other (43 R162). -/
theorem container_append_eq_some {Ps Qs : List (List Byte)} {C : List Byte} (h : container (Ps ++ Qs) = some C) :
    ∃ D E, container Ps = some D ∧ container Qs = some E ∧ C = D ++ E := by
  induction Ps generalizing C with
  | nil => exact ⟨[], C, rfl, h, rfl⟩
  | cons P Ps ih =>
    obtain ⟨r, D, hr, hD, rfl⟩ := container_cons_eq_some h
    obtain ⟨D, E, hPs, hQs, rfl⟩ := ih hD
    exact ⟨r ++ D, E, by rw [container, hr, hPs]; rfl, hQs, (List.append_assoc r D E).symm⟩

/-- The container has as many bytes as the trailing total says (43 R167). -/
theorem length_of_container {Ps : List (List Byte)} {C : List Byte} (h : container Ps = some C) :
    C.length = totalBytes Ps := by
  induction Ps generalizing C with
  | nil => cases h; rfl
  | cons P Ps ih =>
    obtain ⟨r, D, hr, hD, rfl⟩ := container_cons_eq_some h
    rw [List.length_append, length_of_record hr, ih hD, totalBytes]

/-- Settles O56: an entry of the table is the total byte count of the frames before it, which is the length of their container,
and behind that container the frame's record starts. -/
theorem offsetsLocateRecords : Obligations.OffsetsLocateRecords := by
  refine fun Ps => ⟨length_offsetsFrom 0 Ps, fun hne => ?start, fun i hi => ?grows, fun C hC =>
    ⟨length_of_container hC, fun i hi => ?stands⟩⟩
  case start =>
    cases Ps with
    | nil => exact absurd rfl hne
    | cons P Ps => rfl
  case grows =>
    have hlt : i < Ps.length := Nat.lt_of_succ_lt hi
    rw [getD_offsetTable hi, getD_offsetTable hlt, List.take_succ_eq_append_getElem hlt, totalBytes_append,
      List.getD_eq_getElem _ _ hlt, totalBytes, totalBytes]
    omega
  case stands =>
    rw [getD_offsetTable hi, List.getD_eq_getElem _ _ hi]
    rw [← List.take_append_drop i Ps, List.drop_eq_getElem_cons hi] at hC
    obtain ⟨D, E, hbefore, hfrom, rfl⟩ := container_append_eq_some hC
    obtain ⟨r, F, hr, -, rfl⟩ := container_cons_eq_some hfrom
    rw [← length_of_container hbefore, List.drop_left, ← length_of_record hr, List.take_left, hr]

/-! ## Payloads on OUT -/

/-- Settles O58: `EOI` puts the encoding of the image and `END` on `OUT`, where a block with no run open holds no byte. -/
theorem imageBecomesARecord : Obligations.ImageBecomesARecord := by
  intro W H g vs s rest hinv hflushed hW hH hlen hshow hin
  obtain ⟨t, hrun, -, -, hout, -, -⟩ := imageAgreesWithPack W H g vs s rest hflushed hW hH hlen hshow hin
  have hpayloads : t.payloads = s.payloads ++ [rleEncode (pack W H g)] :=
    (congrArg (payloadsFrom []) hout).trans (payloadsFrom_append_buffer [] _ _ (hinv.outClosed hflushed.rcnt))
  exact ⟨t, hrun, hpayloads, (congrArg container hpayloads).trans (container_append _ _)⟩

/-- Behind whole pairs a payload is read from the start of a pair again (30 R74). -/
theorem countsLegal_append {P : List Byte} (h : countsLegal P = true) (Q : List Byte) :
    countsLegal (P ++ Q) = countsLegal Q := by
  induction P using countsLegal.induct with
  | case1 => rfl
  | case2 => cases h
  | case3 c v P ih =>
    obtain ⟨hc, hP⟩ : c ≠ 0#8 ∧ countsLegal P = true := by simpa [countsLegal] using h
    simp [countsLegal, hc, ih hP]

/-- Whole pairs are an even number of bytes (20 R59). -/
theorem even_length_of_countsLegal {P : List Byte} (h : countsLegal P = true) : P.length % 2 = 0 := by
  induction P using countsLegal.induct with
  | case1 => rfl
  | case2 => cases h
  | case3 c v P ih =>
    obtain ⟨-, hP⟩ : c ≠ 0#8 ∧ countsLegal P = true := by simpa [countsLegal] using h
    exact (Nat.add_mod_right _ 2).trans (ih hP)

/-- A stream of whole pairs and `END` events has payloads of whole pairs, when the bytes held before it are whole pairs
(20 R59). -/
theorem countsLegal_of_mem_payloadsFrom {held P : List Byte} {es : List Event} (hheld : countsLegal held = true)
    (hes : wholePairs es = true) (hP : P ∈ payloadsFrom held es) : countsLegal P = true := by
  induction es using wholePairs.induct generalizing held with
  | case1 => cases hP
  | case2 es ih =>
    obtain rfl | hP := List.mem_cons.mp hP
    · exact hheld
    · exact ih rfl hes hP
  | case3 c v es ih =>
    obtain ⟨hc, hes⟩ : c ≠ 0#8 ∧ wholePairs es = true := by simpa [wholePairs] using hes
    have hpair : countsLegal (held ++ [c] ++ [v]) = true := by
      rw [List.append_assoc, countsLegal_append hheld]
      simp [countsLegal, hc]
    exact ih hpair hes hP
  | case4 => cases hes
  | case5 => cases hes

/-- Settles O59: the pairs on `OUT` are whole in every state that meets the invariants, and 65535 is odd. -/
theorem payloadsAreWholePairs : Obligations.PayloadsAreWholePairs := by
  intro s hinv P hP
  have hlegal : countsLegal P = true := countsLegal_of_mem_payloadsFrom rfl hinv.outPairs hP
  have heven : P.length % 2 = 0 := even_length_of_countsLegal hlegal
  have hodd : P.length ≠ 65535 := fun h => by rw [h] at heven; cases heven
  exact ⟨heven, hlegal, hodd, fun r hr => Nat.le_of_lt_succ (Nat.lt_of_le_of_ne (length_le_of_record hr) hodd)⟩

end Sys2Proof.Machine
end

section
/-! PROOFS. The fault (60_exceptions.md R180 to R192): which words raise it and with which cause, that raising changes the latch
only, and that a faulted block changes at a reset only. -/

namespace Sys2Proof.Machine

/-! ## What raises a fault -/

/-- The condition under which word `w` raises cause `c` on a block that has not faulted (60 R182 to R184). -/
def State.Raises (c : Cause) (w : CmdWord) (s : State) : Prop :=
  match c with
  | .illegalCmd => ∃ why, decode w = .illegal why
  | .dimOverrun => (∃ v, decode w = .command (.pix v)) ∧ s.pcnt.toNat = s.cfgW.toNat * s.cfgH.toNat
  | .dimUnderrun => decode w = .command .eoi ∧ s.pcnt.toNat ≠ s.cfgW.toNat * s.cfgH.toNat

/-- Some cause is raised when one of the three conditions holds (60 R181). -/
theorem State.exists_raises_iff {w : CmdWord} {s : State} :
    (∃ c, s.Raises c w) ↔ s.Raises .illegalCmd w ∨ s.Raises .dimOverrun w ∨ s.Raises .dimUnderrun w := by
  constructor
  · rintro ⟨c, h⟩
    cases c with
    | illegalCmd => exact .inl h
    | dimOverrun => exact .inr (.inl h)
    | dimUnderrun => exact .inr (.inr h)
  · rintro (h | h | h) <;> exact ⟨_, h⟩

theorem wordEffect_of_command {w : CmdWord} {i : Instr} (h : decode w = .command i) (s : State) :
    wordEffect w s = effect i s := by
  simp [wordEffect, h]

theorem wordEffect_of_illegal {w : CmdWord} {why : Reject} (h : decode w = .illegal why) (s : State) :
    wordEffect w s = s.raiseFault .illegalCmd w := by
  simp [wordEffect, h]

theorem encode_of_decode {w : CmdWord} {i : Instr} (h : decode w = .command i) : encode i = w :=
  ((decodeEncodeAgree i w).mp h).symm

/-- Where its condition holds, a cause is raised with the word itself (60 R188). -/
theorem wordEffect_of_raises {c : Cause} {w : CmdWord} {s : State} (h : s.Raises c w) :
    wordEffect w s = s.raiseFault c w := by
  cases c with
  | illegalCmd =>
    obtain ⟨why, hd⟩ := h
    exact wordEffect_of_illegal hd s
  | dimOverrun =>
    obtain ⟨⟨v, hd⟩, hfull⟩ := h
    rw [wordEffect_of_command hd, effect_pix_of_full hfull, encode_of_decode hd]
  | dimUnderrun =>
    obtain ⟨hd, hshort⟩ := h
    rw [wordEffect_of_command hd, effect_eoi_of_short hshort, encode_of_decode hd]

/-- Where no condition holds, the word does not touch the latch (60 R185, 10 R31). -/
theorem wordEffect_latch_of_not_raises {w : CmdWord} {s : State} (h : ∀ c, ¬ s.Raises c w) :
    (wordEffect w s).latch = s.latch := by
  cases hd : decode w with
  | illegal why => exact absurd ⟨why, hd⟩ (h .illegalCmd)
  | command i =>
    rw [wordEffect_of_command hd]
    cases i with
    | nop => rfl
    | pix v =>
      have hroom : s.pcnt.toNat ≠ s.cfgW.toNat * s.cfgH.toNat := fun hfull => h .dimOverrun ⟨⟨v, hd⟩, hfull⟩
      rw [effect_pix_of_room hroom, State.takePixel_latch]
    | eoi =>
      have hfull : s.pcnt.toNat = s.cfgW.toNat * s.cfgH.toNat := by_contra fun hshort => h .dimUnderrun ⟨hd, hshort⟩
      rw [effect_eoi_of_full hfull, State.endImage_latch]
    | byte b => rw [effect_byte, State.rleByte_eq]; rfl
    | eob => rw [effect_eob, State.closeBuffer_eq]; rfl

/-! ## A step on an offered word -/

/-- A faulted block only consumes the word (60 R189). -/
theorem step_issue_of_fault {s : State} {w : CmdWord} {rest : List HostAction} (hin : s.input = .issue w :: rest)
    (hfault : s.fault = true) : step s = .next { s with input := rest } := by
  have hrest : State.fault { s with input := rest } = true := hfault
  rw [step_issue hin, runWord_of_fault hrest]

/-- A block that has not faulted consumes the word and has its effect. -/
theorem step_issue_of_ok {s : State} {w : CmdWord} {rest : List HostAction} (hin : s.input = .issue w :: rest)
    (hok : s.fault = false) : step s = .next (wordEffect w { s with input := rest }) := by
  have hrest : State.fault { s with input := rest } = false := hok
  rw [step_issue_eq hin, State.unlessFaulted_of_ok hrest]

/-- A word whose condition holds is consumed and raises its cause, and that is all (60 R188). -/
theorem step_of_raises {c : Cause} {s : State} {w : CmdWord} {rest : List HostAction} (h : s.Raises c w)
    (hin : s.input = .issue w :: rest) (hok : s.fault = false) :
    step s = .next (State.raiseFault c w { s with input := rest }) := by
  have hrest : State.Raises c w { s with input := rest } := h
  rw [step_issue_of_ok hin hok, wordEffect_of_raises hrest]

/-- Everything an offered word can do to the latch of a block that has not faulted: raise the cause whose condition holds, or
leave it without a fault. -/
theorem step_issue_latch_cases {s t : State} {w : CmdWord} {rest : List HostAction} (hin : s.input = .issue w :: rest)
    (hok : s.fault = false) (hstep : step s = .next t) :
    (∃ c, s.Raises c w ∧ t = State.raiseFault c w { s with input := rest }) ∨
    ((∀ c, ¬ s.Raises c w) ∧ t.fault = false) := by
  by_cases h : ∃ c, s.Raises c w
  · obtain ⟨c, hc⟩ := h
    rw [step_of_raises hc hin hok] at hstep
    cases hstep
    exact .inl ⟨c, hc, rfl⟩
  · have hnone : ∀ c, ¬ State.Raises c w { s with input := rest } := not_exists.mp h
    rw [step_issue_of_ok hin hok] at hstep
    cases hstep
    have hfault : (wordEffect w { s with input := rest }).fault = s.fault :=
      congrArg (·.1) (wordEffect_latch_of_not_raises hnone)
    exact .inr ⟨hnone, hfault.trans hok⟩

/-- A step that raises has one of the three causes, for its condition, and is the latch of that cause. -/
theorem raises_of_step_fault {s t : State} {w : CmdWord} {rest : List HostAction} (hin : s.input = .issue w :: rest)
    (hok : s.fault = false) (hstep : step s = .next t) (ht : t.fault = true) :
    ∃ c, s.Raises c w ∧ t = State.raiseFault c w { s with input := rest } := by
  obtain h | ⟨-, hnone⟩ := step_issue_latch_cases hin hok hstep
  · exact h
  · rw [ht] at hnone
    cases hnone

/-- Settles O9: both grounds make the word illegal, which is the condition of cause 1. -/
theorem illegalWordLatches : Obligations.IllegalWordLatches := by
  intro s w rest hin hok hw
  have hillegal : s.Raises .illegalCmd w := by
    obtain hop | ⟨hop, harg⟩ := hw
    · exact ⟨_, decode_of_reservedOpcode hop⟩
    · exact ⟨_, decode_of_nonZeroArg hop harg⟩
  exact step_of_raises hillegal hin hok

/-- Settles O11: the step is `State.raiseFault` on the state with the word consumed, and the codes are 1 to 3. -/
theorem raisingChangesTheLatchOnly : Obligations.RaisingChangesTheLatchOnly := by
  intro s t w rest hin hok hstep ht
  obtain ⟨c, -, rfl⟩ := raises_of_step_fault hin hok hstep ht
  have hcode : 1 ≤ c.code.toNat ∧ c.code.toNat ≤ 3 := by cases c <;> decide
  exact ⟨c.code, hcode.1, hcode.2, rfl⟩

/-- Settles O12: the three conditions are those of `State.Raises`, and each speaks of another answer of the decoder. -/
theorem causeOfEveryFault : Obligations.CauseOfEveryFault := by
  intro s t w rest hin hok hstep
  have hraises : t.fault = true ↔ ∃ c, s.Raises c w := by
    obtain ⟨c, hc, rfl⟩ | ⟨hnone, hfault⟩ := step_issue_latch_cases hin hok hstep
    · exact iff_of_true rfl ⟨c, hc⟩
    · exact iff_of_false (by simp [hfault]) (not_exists.mpr hnone)
  refine ⟨hraises.trans State.exists_raises_iff, fun ht => ?cause⟩
  case cause =>
    obtain ⟨c, hc, rfl⟩ := raises_of_step_fault hin hok hstep ht
    cases c with
    | illegalCmd =>
      obtain ⟨why, hd⟩ := hc
      simp [hd, Cause.code]
    | dimOverrun =>
      obtain ⟨⟨v, hd⟩, -⟩ := hc
      simp [hd, Cause.code]
    | dimUnderrun =>
      obtain ⟨hd, -⟩ := hc
      simp [hd, Cause.code]

/-- Settles O27: a full image is the condition of cause 2, and the operand fits below the opcode. -/
theorem dimOverrunLatches : Obligations.DimOverrunLatches := by
  intro v s hok hfull
  have hword : (encode (.pix v)).toNat = 0x100 + v.toNat := by
    simp only [encode]
    bv_omega
  refine ⟨_, exec_of_ok hok _, ?_⟩
  rw [effect_pix_of_full hfull]
  exact ⟨rfl, rfl, hword, rfl, rfl, rfl, rfl, rfl, rfl, rfl, rfl⟩

/-- Settles O28: an image with pixels missing is not full, which is the condition of cause 3. -/
theorem dimUnderrunLatches : Obligations.DimUnderrunLatches := by
  intro s hok hshort
  refine ⟨_, exec_of_ok hok _, ?_⟩
  rw [effect_eoi_of_short (Nat.ne_of_lt hshort)]
  exact ⟨rfl, rfl, rfl, rfl, rfl, rfl, rfl, rfl, rfl, rfl, rfl⟩

/-! ## The faulted block -/

/-- Settles O10: the step only consumes the word, and a flushed block has not faulted. -/
theorem faultedBlockDiscardsEveryWord : Obligations.FaultedBlockDiscardsEveryWord := by
  intro s w rest hfault hin
  have hnotWell {u : State} (hu : u.fault = true) : ¬ u.endedWell := by
    rintro ⟨-, hflushed⟩
    simp [hflushed.fault] at hu
  exact ⟨step_issue_of_fault hin hfault, hnotWell hfault, hnotWell hfault⟩

/-- Settles O13: of what a step can do, only the reset touches more than the offered actions and the configuration inputs. -/
theorem onlyResetLeavesTheFault : Obligations.OnlyResetLeavesTheFault := by
  intro s t hfault hstep
  obtain ⟨hin, rfl⟩ | ⟨w, rest, hin, -⟩ | ⟨cfg, rest, hin, rfl⟩ | ⟨rest, hin, rfl⟩ := step_cases hstep
  · exact .inr ⟨by simp [hin], rfl⟩
  · rw [step_issue_of_fault hin hfault] at hstep
    cases hstep
    exact .inr ⟨by simp [hin], rfl⟩
  · exact .inr ⟨by simp [hin], rfl⟩
  · exact .inl ⟨by simp [hin], rfl⟩

/-! ## The diagnostic -/

/-- The stage that finds a cause (60 R186). -/
def Cause.stage : Cause → Stage
  | .illegalCmd => .commandDecoder
  | .dimOverrun => .bitPacker
  | .dimUnderrun => .bitPacker

theorem Cause.stage_eq_commandDecoder_iff (c : Cause) : c.stage = .commandDecoder ↔ c.code = 1#3 := by
  cases c <;> decide

theorem Cause.stage_eq_bitPacker_iff (c : Cause) : c.stage = .bitPacker ↔ c.code = 2#3 ∨ c.code = 3#3 := by
  cases c <;> decide

/-- The word that a raised cause leaves in `FINFO` names the stage of that cause (10 R34). -/
theorem failedStage_of_raises {c : Cause} {w : CmdWord} {s t : State} (h : s.Raises c w) (hfault : t.fault = true)
    (hfinfo : t.finfo = w) : t.failedStage = some c.stage := by
  cases c with
  | illegalCmd =>
    obtain ⟨why, hd⟩ := h
    simp [State.failedStage, hfault, hfinfo, hd, Cause.stage]
  | dimOverrun =>
    obtain ⟨⟨v, hd⟩, -⟩ := h
    simp [State.failedStage, hfault, hfinfo, hd, Cause.stage]
  | dimUnderrun =>
    obtain ⟨hd, -⟩ := h
    simp [State.failedStage, hfault, hfinfo, hd, Cause.stage]

/-- Settles O44: the step latches a cause and leaves the rest, and from then on a word is only consumed. -/
theorem diagnosticOfAFault : Obligations.DiagnosticOfAFault := by
  intro s t w rest hin hok hstep ht
  obtain ⟨c, hc, rfl⟩ := raises_of_step_fault hin hok hstep ht
  rw [failedStage_of_raises hc rfl rfl, Option.some_inj, Option.some_inj]
  refine ⟨c.stage_eq_commandDecoder_iff, c.stage_eq_bitPacker_iff, rfl, rfl, fun w' rest' hrest => ?_⟩
  exact ⟨_, step_issue_of_fault hrest rfl, failedStage_of_raises hc rfl rfl, rfl, rfl, rfl⟩

end Sys2Proof.Machine
end

section
/-! PROOFS. What the configuration, the host's actions and the streams can do from step to step (70_reset_and_hazards.md R213,
R228, R229), and how a run ends (R230). -/

namespace Sys2Proof.Machine

/-! ## The configuration -/

/-- No command word changes what belongs to the host (10 R35). -/
theorem wordEffect_surroundings (w : CmdWord) (s : State) : (wordEffect w s).surroundings = s.surroundings := by
  obtain ⟨i, hi⟩ | hill := wordEffect_cases w
  · rw [hi]
    exact effect_surroundings i s
  · rw [hill]
    rfl

theorem State.unlessFaulted_surroundings {f : State → State} {s : State} (hf : (f s).surroundings = s.surroundings) :
    (s.unlessFaulted f).surroundings = s.surroundings := by
  cases hfault : s.fault with
  | true => rw [State.unlessFaulted_of_fault hfault]
  | false => rwa [State.unlessFaulted_of_ok hfault]

/-- Settles O14: a word keeps `State.surroundings`, new inputs are only put on the inputs, and a reset samples them. -/
theorem onlyResetLatchesConfiguration : Obligations.OnlyResetLatchesConfiguration := by
  intro s t hstep
  obtain ⟨hin, rfl⟩ | ⟨w, rest, hin, rfl⟩ | ⟨cfg, rest, hin, rfl⟩ | ⟨rest, hin, rfl⟩ := step_cases hstep
  · exact ⟨by simp [hin], fun _ => ⟨rfl, rfl⟩⟩
  · have hkeeps : (State.unlessFaulted (wordEffect w) { s with input := rest }).surroundings =
        (s.cfgW, s.cfgH, s.cfgIn, rest, s.earlier) :=
      State.unlessFaulted_surroundings (wordEffect_surroundings w _)
    exact ⟨by simp [hin], fun _ => ⟨congrArg (·.1) hkeeps, congrArg (·.2.1) hkeeps⟩⟩
  · exact ⟨by simp [hin], fun _ => ⟨rfl, rfl⟩⟩
  · exact ⟨fun _ => ⟨rfl, rfl⟩, by simp [hin]⟩

/-! ## The number of events -/

/-- `t` holds at most `m` events more on `PK`, and at most `n` more on `OUT`, than `s`. -/
structure State.AddsAtMost (m n : Nat) (s t : State) : Prop where
  pk : t.pk.length ≤ s.pk.length + m
  out : t.out.length ≤ s.out.length + n

theorem State.AddsAtMost.of_eq {m n : Nat} {s t : State} (hpk : t.pk = s.pk) (hout : t.out = s.out) : s.AddsAtMost m n t :=
  ⟨by simp [hpk], by simp [hout]⟩

theorem State.AddsAtMost.trans {m n k l : Nat} {s t u : State} (hst : s.AddsAtMost m n t) (htu : t.AddsAtMost k l u) :
    s.AddsAtMost (m + k) (n + l) u := by
  obtain ⟨hpk, hout⟩ := hst
  obtain ⟨hpk', hout'⟩ := htu
  exact ⟨by omega, by omega⟩

/-- Together with `State.Grows` the bound is one on the events appended. -/
theorem State.AddsAtMost.exists_append {m n : Nat} {s t : State} (h : s.AddsAtMost m n t) (hgrows : s.Grows t) :
    ∃ e f : List Event, t.pk = s.pk ++ e ∧ t.out = s.out ++ f ∧ e.length ≤ m ∧ f.length ≤ n := by
  obtain ⟨hpk, hout⟩ := h
  obtain ⟨⟨e, he⟩, ⟨f, hf⟩, -⟩ := hgrows
  rw [← he, List.length_append] at hpk
  rw [← hf, List.length_append] at hout
  exact ⟨e, f, he.symm, hf.symm, by omega, by omega⟩

/-- `RleByte` closes one run at most (41 R120). -/
theorem State.length_closedPair_le (b : Byte) (s : State) : (s.closedPair b).length ≤ 2 := by
  unfold State.closedPair
  split
  · exact Nat.zero_le 2
  · exact le_rfl

/-- `RleFlush` closes one run at most (41 R121). -/
theorem State.length_heldPair_le (s : State) : s.heldPair.length ≤ 2 := by
  unfold State.heldPair
  split
  · exact Nat.zero_le 2
  · exact le_rfl

theorem State.rleByte_addsAtMost (b : Byte) (s : State) : s.AddsAtMost 0 2 (s.rleByte b) := by
  have hpair := s.length_closedPair_le b
  rw [State.rleByte_eq]
  exact ⟨le_rfl, by simpa using hpair⟩

theorem State.handOver_addsAtMost (b : Byte) (s : State) : s.AddsAtMost 1 2 (s.handOver b) := by
  have hpair := s.length_closedPair_le b
  rw [State.handOver_eq]
  exact ⟨by simp, by simpa using hpair⟩

theorem State.closeBuffer_addsAtMost (s : State) : s.AddsAtMost 0 3 s.closeBuffer := by
  have hpair := s.length_heldPair_le
  rw [State.closeBuffer_eq]
  refine ⟨le_rfl, ?_⟩
  simp only [List.length_append, List.length_singleton]
  omega

theorem State.takePixel_addsAtMost (v : Byte) (s : State) : s.AddsAtMost 1 2 (s.takePixel v) := by
  by_cases h8 : s.nb + 1#4 = 8#4
  · rw [State.takePixel_of_eighth h8]
    have hshift : s.AddsAtMost 0 0 (s.shiftPixel v) := .of_eq rfl rfl
    exact hshift.trans (State.handOver_addsAtMost _ _)
  · rw [State.takePixel_of_short h8]
    exact .of_eq rfl rfl

theorem State.flushPartial_addsAtMost (s : State) : s.AddsAtMost 1 2 s.flushPartial := by
  by_cases hnb : s.nb = 0#4
  · rw [State.flushPartial_of_whole hnb]
    exact .of_eq rfl rfl
  · rw [State.flushPartial_of_partial hnb]
    exact State.handOver_addsAtMost _ _

/-- The hand-over of the padded byte, the `END` on `PK`, and the end of the buffer on `OUT` (40 R103). -/
theorem State.endImage_addsAtMost (s : State) : s.AddsAtMost 2 5 s.endImage := by
  have hend : s.flushPartial.AddsAtMost 1 0 (s.flushPartial.emit .pk .endMark) := ⟨by simp, le_rfl⟩
  have hclose := (s.flushPartial_addsAtMost.trans hend).trans (State.closeBuffer_addsAtMost _)
  exact ⟨hclose.pk, hclose.out⟩

theorem effect_addsAtMost (i : Instr) (s : State) : s.AddsAtMost (maxPkEvents i) (maxOutEvents i) (effect i s) := by
  cases i with
  | nop => exact .of_eq rfl rfl
  | pix v =>
    rw [effect_pix]
    split
    · exact .of_eq rfl rfl
    · exact s.takePixel_addsAtMost v
  | eoi =>
    rw [effect_eoi]
    split
    · exact s.endImage_addsAtMost
    · exact .of_eq rfl rfl
  | byte b => exact s.rleByte_addsAtMost b
  | eob => exact s.closeBuffer_addsAtMost

/-- Settles O34: a discarded command emits nothing, and the effect of any other appends within its bound. -/
theorem mostEventsOfACommand : Obligations.MostEventsOfACommand := by
  intro i s t h
  obtain ⟨-, rfl⟩ | ⟨-, rfl⟩ := exec_cases h
  · exact State.AddsAtMost.exists_append (.of_eq rfl rfl) (.refl _)
  · exact (effect_addsAtMost i s).exists_append (effect_grows i s)

/-! ## Every step completes -/

/-- Every state has a next state: whatever the host does next is met, and with nothing left the block waits (70 R229). -/
theorem exists_step_eq_next (s : State) : ∃ t, step s = .next t := by
  cases hin : s.input with
  | nil => exact ⟨_, step_wait hin⟩
  | cons a rest =>
    cases a with
    | issue w => exact ⟨_, step_issue_eq hin⟩
    | configure cfg => exact ⟨_, step_configure hin⟩
    | reset => exact ⟨_, step_reset hin⟩

/-- Settles O18: each host action has its step, and with none left the step is the wait. -/
theorem everyStepCompletes : Obligations.EveryStepCompletes :=
  ⟨exists_step_eq_next, fun _ => step_wait⟩

/-! ## How a run ends -/

/-- A block that has not faulted is flushed, or one of the three registers is not 0 (10 R42). -/
theorem State.not_flushed_iff {s : State} (hok : s.fault = false) :
    ¬ s.Flushed ↔ s.nb ≠ 0#4 ∨ s.pcnt ≠ 0#32 ∨ s.rcnt ≠ 0#8 := by
  have hflushed : s.Flushed ↔ s.nb = 0#4 ∧ s.pcnt = 0#32 ∧ s.rcnt = 0#8 :=
    ⟨fun h => ⟨h.nb, h.pcnt, h.rcnt⟩, fun ⟨hnb, hpcnt, hrcnt⟩ => ⟨hnb, hpcnt, hrcnt, hok⟩⟩
  rw [hflushed, not_and_or, not_and_or]

/-- A flushed block holds no partial byte and no open run (10 R38). -/
theorem State.Flushed.holdsNothing {s : State} (h : s.Flushed) : s.holdsNothing = true := by
  simp [State.holdsNothing, State.bpPartial, State.runOpen, h.nb, h.rcnt]

/-- Settles O43: the fault tells the bad end from the other two, and being flushed tells those two apart. -/
theorem runEndsInOneOfThreeWays : Obligations.RunEndsInOneOfThreeWays := by
  intro s hleft
  refine ⟨?exhaustive, ?wellBadly, ?wellUnfinished, ?badlyUnfinished, fun ⟨_, hflushed⟩ => hflushed.holdsNothing⟩
  case exhaustive =>
    cases hfault : s.fault with
    | true => exact .inr (.inl hfault)
    | false =>
      by_cases hflushed : s.Flushed
      · exact .inl ⟨hleft, hflushed⟩
      · exact .inr (.inr ⟨hleft, hfault, (State.not_flushed_iff hfault).mp hflushed⟩)
  case wellBadly =>
    rintro ⟨⟨-, hflushed⟩, hbadly⟩
    exact Bool.false_ne_true (hflushed.fault.symm.trans hbadly)
  case wellUnfinished =>
    rintro ⟨⟨-, hflushed⟩, -, hok, hheld⟩
    exact (State.not_flushed_iff hok).mpr hheld hflushed
  case badlyUnfinished =>
    rintro ⟨hbadly, -, hok, -⟩
    exact Bool.false_ne_true (hok.symm.trans hbadly)

end Sys2Proof.Machine
end
